-- ==== Sys2Proof/Word.lean ====
section
/-! DEFINITION. The value types of the FRC (spec/00_scope.md R7, R9, R10): bytes, buffers and the 12-bit
addresses and command codes. Every integer of the block is unsigned (R10). -/

namespace Sys2Proof

/-- A byte: an 8-bit unsigned value 0..255 (R9). -/
abbrev Byte := BitVec 8

/-- A buffer: a finite sequence of bytes, possibly empty, of any length; byte 0 is the first on the wire (R9, R52). -/
abbrev Buffer := List Byte

/-- ADDR_W and CMD_W: a 12-bit device address, station address or command code (R7). -/
abbrev Addr := BitVec 12

end Sys2Proof
end

