-- ==== Sys2Proof/Config.lean ====
section
/-! DEFINITION. The parameters that the spec leaves open (spec/00_scope.md R8, spec/10_state.md R32):
META, TS, N_MAX and ATTRIBUTION. The block has no other open value, and no result of an operation is undefined. -/

namespace Sys2Proof

/-- Which tokens besides 0 META has: open, so that META may have one value, several or infinitely many, and neither that
two of its values differ nor that all are one can be proved (R8: "OPEN type"). -/
opaque Config.metaHas : Nat → Bool

/-- Which tokens besides 0 TS has: open, as `Config.metaHas`. -/
opaque Config.tsHas : Nat → Bool

/-- META, the OPEN type of an entry's opaque metadata (R8, D15): a token of an open set. No operation inspects one:
`Machine.exec` commutes with every renaming of the tokens. DESIGN CHOICE (log 2): META has a value, token 0, and at most
countably many. -/
structure Meta where
  token : Nat
  isValue : token = 0 ∨ Config.metaHas token = true
  deriving DecidableEq, Repr

/-- TS, the OPEN type of the host's timestamps (R8, D14). DESIGN CHOICE (log 2), as `Meta`. -/
structure Ts where
  token : Nat
  isValue : token = 0 ∨ Config.tsHas token = true
  deriving DecidableEq, Repr

/-- The value of META that the model knows of. -/
def Meta.base : Meta := ⟨0, .inl rfl⟩

/-- The value of TS that the model knows of. -/
def Ts.base : Ts := ⟨0, .inl rfl⟩

/-- ATTRIBUTION (R8, D5): the source's behaviour, or its proposed stricter design. -/
inductive Attribution where
  | lenient
  | strict
  deriving DecidableEq, Repr

/-- The two parameters of R8 that have a value the block reads: N_MAX (R181) and ATTRIBUTION (R220). -/
structure Params where
  nMax : Nat
  attribution : Attribution
  deriving DecidableEq, Repr

/-- The open part of N_MAX: no value can be proved of it (R8: "OPEN, natural number ≥ 1"). -/
opaque Config.nMaxLessOne : Nat

/-- N_MAX, the capacity of the command table: any natural number from 1 up (R8, D16). -/
def Config.nMax : Nat := Config.nMaxLessOne + 1

/-- The parameters of the block that comes out of reset: N_MAX is open, ATTRIBUTION is `Lenient`, "the default" (R8). -/
def Config.params : Params := { nMax := Config.nMax, attribution := .lenient }

end Sys2Proof
end

