-- ==== Sys2Proof/Syntax.lean ====
section
/-! DEFINITION. The instructions of the FRC: one constructor per row of spec/opcode_table.json, with the operands
that spec/30_encoding.md R71, R73 and R80 give it; and the words that carry them, one kind for each of the three
encodings of spec/30_encoding.md (PORT, REQ20, RSPV). -/

namespace Sys2Proof

/-- One element of CONFIGURE's operand `list` (R80): naturals of any size, checked by R181, and the metadata. -/
structure EntryArg where
  deviceAddress : Nat
  commandCode : Nat
  metadata : Meta
  deriving DecidableEq, Repr

/-- The fields of a response frame, format RSPV, as the bytes that stand in them (R73). Any byte may stand in any
field: what a field must hold is checked by `decodeResponse` (R140), not by the format (R78). -/
structure RspFields where
  sof : Byte
  dest : Buffer
  src : Buffer
  cmd : Buffer
  rsvd3 : Buffer
  size : Buffer
  payload : Buffer
  crc : Buffer
  term2 : Buffer
  deriving DecidableEq, Repr

/-- One constructor per row of spec/opcode_table.json. -/
inductive Instr where
  /-- CONFIGURE, OP 0x0 (R180). -/
  | configure (station : Nat) (list : List EntryArg)
  /-- TX_PEEK, OP 0x1 (R201). -/
  | txPeek
  /-- TX_COMMIT, OP 0x2 (R210): `n` is what the transport's `write` returned. -/
  | txCommit (n : Nat)
  /-- RX, OP 0x3 (R220). -/
  | rx (bytes : Buffer) (ts : Ts)
  /-- CKSUM, OP 0x4 (R100). -/
  | cksum (bytes : Buffer)
  /-- ENCODE, OP 0x5 (R120). -/
  | encode (dest stn cmd : Nat)
  /-- DECODE, OP 0x6 (R152). -/
  | decode (bytes : Buffer)
  /-- STATUS, OP 0x7 (R230). -/
  | status
  /-- RESERVED, OP 0x8 to 0xF (R81). -/
  | reserved (op : BitVec 4)
  /-- REQ_FRAME, format REQ20 (R71, R120): the frame the block sends for these three 12-bit fields. -/
  | reqFrame (dest stn cmd : Addr)
  /-- RSP_FRAME, format RSPV (R73, R140): a frame a device sends, put to the block's response decoder. -/
  | rspFrame (fields : RspFields)
  deriving DecidableEq, Repr

/-- A port transaction, format PORT (R79): `OP[3:0]` and the operand lines. A row of R80 uses the lines its operands
name: natural operands in the row's order on `nat1`, `nat2`, `nat3`; `bytes`; `ts`; `list`. The other lines are not
read. DESIGN CHOICE (log 4): the spec gives the operands' shapes and order and no bits. -/
structure PortWord where
  op : BitVec 4
  nat1 : Nat
  nat2 : Nat
  nat3 : Nat
  bytes : Buffer
  ts : Ts
  list : List EntryArg
  deriving DecidableEq, Repr

/-- The port transaction whose operand lines are all zero or empty, its timestamp token 0. -/
def PortWord.ofOp (op : BitVec 4) : PortWord :=
  { op := op, nat1 := 0, nat2 := 0, nat3 := 0, bytes := [], ts := .base, list := [] }

/-- A word in one of the FRC's three encodings (spec/30_encoding.md): what the host puts to the block. -/
inductive HostWord where
  | port (w : PortWord)
  | req20 (bytes : Buffer)
  | rspv (bytes : Buffer)
  deriving DecidableEq, Repr

end Sys2Proof
end

