-- ==== Sys2Proof/Machine/Operands.lean ====
section
/-! DEFINITION. The forms operands and results take: hex text (spec/00_scope.md R11), sub-buffers (R9), the checksum
of spec/40_checksum.md, and the two frame layouts of spec/30_encoding.md (R71 to R75). -/

namespace Sys2Proof.Machine

/-- `b[lo ..< hi]`, half-open (R9). -/
def slice (b : Buffer) (lo hi : Nat) : Buffer := (b.drop lo).take (hi - lo)

/-- The ASCII bytes of a string literal (R9, R83). -/
def ascii (s : String) : Buffer := s.toList.map fun c => BitVec.ofNat 8 c.toNat

/-- The uppercase hex digit of a value 0..15, an ASCII byte of `0123456789ABCDEF` (R11). -/
def hexDigit (v : Nat) : Byte :=
  if v < 10 then BitVec.ofNat 8 (0x30 + v) else BitVec.ofNat 8 (0x37 + v)

/-- `hexN(v)`: `v mod 16^n` in exactly `n` uppercase digits, most significant first, padded with `'0'` (R11, R53). -/
def hexN : Nat → Nat → Buffer
  | 0, _ => []
  | n + 1, v => hexN n (v / 16) ++ [hexDigit (v % 16)]

/-- The value of one hex digit: `0-9`, `A-F` and `a-f`, and nothing else (R11, D3). -/
def unhexDigit (c : Byte) : Option Nat :=
  if 0x30 ≤ c.toNat ∧ c.toNat ≤ 0x39 then some (c.toNat - 0x30)
  else if 0x41 ≤ c.toNat ∧ c.toNat ≤ 0x46 then some (c.toNat - 0x37)
  else if 0x61 ≤ c.toNat ∧ c.toNat ≤ 0x66 then some (c.toNat - 0x57)
  else none

/-- The digits of a field read onto the value of the digits before them. -/
def unhexFrom (acc : Nat) : Buffer → Option Nat
  | [] => some acc
  | c :: rest => (unhexDigit c).bind fun d => unhexFrom (acc * 16 + d) rest

/-- `unhex(f)`: hex digits read most significant first; `none` on any other byte and on an empty field (R11). -/
def unhex : Buffer → Option Nat
  | [] => none
  | c :: rest => unhexFrom 0 (c :: rest)

/-- The XOR of all bytes of a buffer, 8 bits wide (R100, R101). -/
def xorAll (b : Buffer) : Byte := b.foldl (fun x y => x ^^^ y) 0#8

/-- `checksum(b)`: two uppercase hex digits of the XOR, the one function of both directions (R100, R102). -/
def checksum (b : Buffer) : Buffer := hexN 2 (xorAll b).toNat

/-- SOF, `'@'` (R71, R73). -/
abbrev sofByte : Byte := 0x40#8

/-- RSVD5, the literal `"00000"` (R71, R121). -/
def rsvd5 : Buffer := [0x30#8, 0x30#8, 0x30#8, 0x30#8, 0x30#8]

/-- TERM3, `'*'` CR LF (R71, R122). -/
def term3 : Buffer := [0x2A#8, 0x0D#8, 0x0A#8]

/-- The 15-byte header of a request: SOF, DEST, STATION, CMD, RSVD5, each address reduced modulo 0x1000 (R72, R121, R123). -/
def requestHeader (dest stn cmd : Nat) : Buffer :=
  [sofByte] ++ hexN 3 (dest % 0x1000) ++ hexN 3 (stn % 0x1000) ++ hexN 3 (cmd % 0x1000) ++ rsvd5

/-- `encodeRequest(dest, stn, cmd)`: the header, its checksum and the terminator, 20 bytes (R120, R124). -/
def encodeRequest (dest stn cmd : Nat) : Buffer :=
  requestHeader dest stn cmd ++ checksum (requestHeader dest stn cmd) ++ term3

/-- REQ_LEN (R7). -/
abbrev reqLen : Nat := 20

/-- RSP_MIN_LEN: "13-byte prefix + 2-byte size field + 2-byte checksum + 2-byte terminator" (R7, R142). -/
abbrev rspMinLen : Nat := 19

/-- The bytes of a response frame in wire order (R52, R73). -/
def rspBytes (f : RspFields) : Buffer :=
  [f.sof] ++ f.dest ++ f.src ++ f.cmd ++ f.rsvd3 ++ f.size ++ f.payload ++ f.crc ++ f.term2

/-- The fields of a buffer of at least 19 bytes: the fixed ones from the start, CRC and TERM2 from the end, the payload
between offset 15 and L − 4 (R73, R74). -/
def rspSplit (b : Buffer) : RspFields :=
  { sof := b.headD 0#8
    dest := slice b 1 4
    src := slice b 4 7
    cmd := slice b 7 10
    rsvd3 := slice b 10 13
    size := slice b 13 15
    payload := slice b 15 (b.length - 4)
    crc := slice b (b.length - 4) (b.length - 2)
    term2 := slice b (b.length - 2) b.length }

/-- The frame of R234: `"@" ++ hex3(dst) ++ hex3(src) ++ hex3(cmd) ++ R3 ++ hex2(size) ++ payload ++ C ++ T2`, where `C`
is the checksum of the bytes before it. -/
def stitchResponse (dst src cmd : Addr) (r3 : Buffer) (size : Nat) (payload t2 : Buffer) : Buffer :=
  let covered := [sofByte] ++ hexN 3 dst.toNat ++ hexN 3 src.toNat ++ hexN 3 cmd.toNat ++ r3 ++ hexN 2 size ++ payload
  covered ++ checksum covered ++ t2

end Sys2Proof.Machine
end

