-- ==== Sys2Proof/WellFormed.lean ====
section
/-! DEFINITION. Which terms of `Instr` some encoding of spec/30_encoding.md spells. The operands of a port operation
are unrestricted (R80: naturals, buffers of any length): an out-of-range CONFIGURE is well formed and answers a
configuration error (R181). Only the reserved code and the field lengths of a response frame are checked. -/

namespace Sys2Proof

/-- The fixed field lengths of format RSPV (R73): 1, 3, 3, 3, 3, 2, L − 19, 2 and 2 bytes. -/
abbrev RspFields.WellFormed (f : RspFields) : Prop :=
  f.dest.length = 3 ∧ f.src.length = 3 ∧ f.cmd.length = 3 ∧ f.rsvd3.length = 3 ∧ f.size.length = 2 ∧
    f.crc.length = 2 ∧ f.term2.length = 2

/-- A reserved operation code is one of 0x8 to 0xF: bit 3 is set (R81). -/
abbrev reservedCode (op : BitVec 4) : Prop := 8 ≤ op.toNat

/-- The terms that an encoding spells. -/
def Instr.wf : Instr → Bool
  | .configure _ _ => true
  | .txPeek => true
  | .txCommit _ => true
  | .rx _ _ => true
  | .cksum _ => true
  | .encode _ _ _ => true
  | .decode _ => true
  | .status => true
  | .reserved op => decide (reservedCode op)
  | .reqFrame _ _ _ => true
  | .rspFrame f => decide f.WellFormed

end Sys2Proof
end

