-- ==== Sys2Proof/Decode.lean ====
section
/-! DEFINITION. The decoder, total on every word of the three encodings, and the encoder
(spec/30_encoding.md R71, R73, R79 to R81; spec/opcode_table.json). -/

namespace Sys2Proof

open Sys2Proof.Machine

/-- Why a word spells no instruction. -/
inductive DecodeReject where
  /-- The bytes are not `encodeRequest` of any three fields: the block never sends them (R71, R77). -/
  | notRequestFrame
  /-- Fewer than 19 bytes are no frame of format RSPV (R73). Such a buffer can still be put to RX or DECODE. -/
  | shortResponseFrame
  deriving DecidableEq, Repr

/-- The operation table of R80, and the reserved codes of R81. Every port transaction spells an operation. -/
def decodePort (p : PortWord) : Instr :=
  match p.op.toNat with
  | 0 => .configure p.nat1 p.list
  | 1 => .txPeek
  | 2 => .txCommit p.nat1
  | 3 => .rx p.bytes p.ts
  | 4 => .cksum p.bytes
  | 5 => .encode p.nat1 p.nat2 p.nat3
  | 6 => .decode p.bytes
  | 7 => .status
  | _ => .reserved p.op

/-- A request frame read back from its 20 bytes: only the exact frame of R120 is one. -/
def decodeRequestFrame (b : Buffer) : Except DecodeReject Instr :=
  match unhex (slice b 1 4), unhex (slice b 4 7), unhex (slice b 7 10) with
  | some dest, some stn, some cmd =>
    if encodeRequest dest stn cmd = b then
      .ok (.reqFrame (BitVec.ofNat 12 dest) (BitVec.ofNat 12 stn) (BitVec.ofNat 12 cmd))
    else .error .notRequestFrame
  | _, _, _ => .error .notRequestFrame

/-- A response frame cut into its fields at the offsets of R73 and R74. -/
def decodeResponseFrame (b : Buffer) : Except DecodeReject Instr :=
  if b.length < rspMinLen then .error .shortResponseFrame else .ok (.rspFrame (rspSplit b))

/-- The instruction a word spells, or the reason it spells none. -/
def decode : HostWord → Except DecodeReject Instr
  | .port p => .ok (decodePort p)
  | .req20 b => decodeRequestFrame b
  | .rspv b => decodeResponseFrame b

/-- The words of an instruction (R71, R73, R80): the inverse of `decode` on well-formed instructions. -/
def encode : Instr → HostWord
  | .configure station list => .port { PortWord.ofOp 0x0#4 with nat1 := station, list := list }
  | .txPeek => .port (PortWord.ofOp 0x1#4)
  | .txCommit n => .port { PortWord.ofOp 0x2#4 with nat1 := n }
  | .rx bytes ts => .port { PortWord.ofOp 0x3#4 with bytes := bytes, ts := ts }
  | .cksum bytes => .port { PortWord.ofOp 0x4#4 with bytes := bytes }
  | .encode dest stn cmd => .port { PortWord.ofOp 0x5#4 with nat1 := dest, nat2 := stn, nat3 := cmd }
  | .decode bytes => .port { PortWord.ofOp 0x6#4 with bytes := bytes }
  | .status => .port (PortWord.ofOp 0x7#4)
  | .reserved op => .port (PortWord.ofOp op)
  | .reqFrame dest stn cmd => .req20 (encodeRequest dest.toNat stn.toNat cmd.toNat)
  | .rspFrame f => .rspv (rspBytes f)

/-- The low `n` bytes of a number, the least significant byte first: byte 0 of a frame is the lowest (R52). -/
def bytesOfNat : Nat → Nat → Buffer
  | 0, _ => []
  | n + 1, w => BitVec.ofNat 8 w :: bytesOfNat n (w / 256)

/-- The word that spec/opcode_table.json numbers `w` in `nbits` bits. A row of format PORT has the four bits of OP, its
operand lines zero; 20 bytes are a request frame; any other number of bytes from 19 up is a response frame. -/
def wordOfTable (nbits w : Nat) : HostWord :=
  if nbits < 8 * rspMinLen then .port (PortWord.ofOp (BitVec.ofNat 4 w))
  else if nbits = 8 * reqLen then .req20 (bytesOfNat reqLen w)
  else .rspv (bytesOfNat (nbits / 8) w)

/-- The instruction the decoder reads from an instruction whose bits are `w`, numbered as the table numbers them. -/
def decodeTableWord (nbits w : Nat) : Option Instr :=
  match decode (wordOfTable nbits w) with
  | .ok i => some i
  | .error _ => none

end Sys2Proof
end

