-- ==== Sys2Proof/Machine/State.lean ====
section
/-! DEFINITION. The state of the FRC (spec/10_state.md), the results and events its operations answer with
(spec/30_encoding.md R79, R80), the reasons a step can stop, and the state after power-on reset. -/

namespace Sys2Proof.Machine

/-- The Poll Session state (R26). -/
inductive Phase where
  /-- "no poll list, nothing to send" -/
  | idle
  /-- "request for `currentIndex` not yet written" -/
  | sendPending
  /-- "request sent, awaiting a validated response for `currentIndex`" -/
  | responsePending
  /-- "terminal — wrapped past the last entry" -/
  | cycleDone
  deriving DecidableEq, Repr

/-- The host-contract violations the spec defines (R256). -/
inductive FaultKind where
  | illegalOp
  | commitCountInvalid
  | commitWithoutBuffer
  deriving DecidableEq, Repr

/-- The classified errors of a decode (R250), in the order of their codes (R82). -/
inductive DecodeError where
  | truncatedFrame
  | malformedStart
  | checksumMismatch
  | malformedField
  | addressMismatch
  | lengthMismatch
  | unknownCommandKey
  | unexpectedResponse
  deriving DecidableEq, Repr

/-- The reasons CONFIGURE rejects a configuration (R181, R253). -/
inductive ConfigError where
  | stationOutOfRange
  | tooManyEntries
  | deviceOutOfRange (i : Nat)
  | commandOutOfRange (i : Nat)
  deriving DecidableEq, Repr

/-- The continuation signal of RX (R228). -/
inductive Signal where
  | idle
  | wantWrite
  | stop
  deriving DecidableEq, Repr

/-- A poll target, immutable between two CONFIGUREs (R21, R23, R186). -/
structure CommandEntry where
  deviceAddress : Addr
  commandCode : Addr
  metadata : Meta
  deriving DecidableEq, Repr

/-- The pair that correlates a response to an entry, both components kept whole (R21, R184). -/
structure ResponseKey where
  deviceAddress : Addr
  commandCode : Addr
  deriving DecidableEq, Repr

/-- The key of an entry (R14, R183). -/
def CommandEntry.key (e : CommandEntry) : ResponseKey := ⟨e.deviceAddress, e.commandCode⟩

/-- The finite map ResponseKey → index (R25), as pairs in one canonical form (`Registry.wf`). -/
abbrev Registry := List (ResponseKey × Nat)

/-- A key's place in the canonical form. It orders the stored pairs and is no part of a lookup (R184). -/
def ResponseKey.rank (k : ResponseKey) : Nat := k.deviceAddress.toNat * 0x1000 + k.commandCode.toNat

/-- The canonical form: ranks strictly rising, so that equal maps are equal data. -/
def Registry.wf : Registry → Bool
  | [] => true
  | [_] => true
  | (k, _) :: (k', j) :: rest => decide (k.rank < k'.rank) && Registry.wf ((k', j) :: rest)

/-- The record of a successful decode, the union of the two lists of the source (R149, conflict C1). -/
structure ResponseRecord where
  destinationAddress : Addr
  sourceAddress : Addr
  commandCode : Addr
  payload : Buffer
  reportedSize : Nat
  matchedIndex : Nat
  matchedCommand : CommandEntry
  deriving DecidableEq, Repr

/-- What `decodeResponse` answers: the record, or the first failing check (R140, R141). -/
inductive DecodeResult where
  | ok (r : ResponseRecord)
  | err (k : DecodeError)
  deriving DecidableEq, Repr

/-- The record STATUS reads out (R230). -/
structure StatusRecord where
  phase : Phase
  currentIndex : Nat
  N : Nat
  station : Addr
  cycleComplete : Bool
  fault : Option FaultKind
  deriving DecidableEq, Repr

/-- The result an operation returns (R80). -/
inductive Result where
  /-- `ok` of CONFIGURE and TX_COMMIT. -/
  | ok
  /-- `err(ConfigError(reason))` of CONFIGURE. -/
  | configError (reason : ConfigError)
  /-- TX_PEEK: `some(buffer of 20 bytes)` or `none`. -/
  | offer (buffer : Option Buffer)
  /-- The continuation signal of RX. -/
  | signal (s : Signal)
  /-- The buffer of CKSUM and ENCODE, and the frame of REQ_FRAME. -/
  | buffer (b : Buffer)
  /-- DECODE's `ok(ResponseRecord)` or `err(DecodeError)`, and RSP_FRAME's. -/
  | decoded (r : DecodeResult)
  /-- The record of STATUS. -/
  | status (r : StatusRecord)
  /-- `refused(fault)`: the operation is refused while `fault` is set (R231). -/
  | refused (k : FaultKind)
  /-- `fault(kind)`: the operation raised a fault (R256). -/
  | fault (k : FaultKind)
  deriving DecidableEq, Repr

/-- An output event of RX (R220, R226, R254). -/
inductive Event where
  /-- The buffer was not decoded: the phase is not RESPONSE_PENDING (R221). -/
  | ignored (p : Phase)
  /-- A failed decode, or under Strict a response for another entry (R222, R227). -/
  | rejected (k : DecodeError)
  /-- `onData`: the entry, its payload, the host's timestamp and `currentIndex` before the advance (R226). -/
  | dispatched (entry : CommandEntry) (payload : Buffer) (ts : Ts) (index : Nat)
  deriving DecidableEq, Repr

/-- The state: the record of R21 (its first nine fields), the run-level fault record of R258, the outputs of the last
operation (R79), the transactions the host has put to the port (R20) and the parameters of R8. No field is hidden
state of the block (R34): the last four are the model's own (log 1, log 3, log 5). -/
structure State where
  station : Addr
  N : Nat
  pollList : List CommandEntry
  reqBuf : List Buffer
  registry : Registry
  phase : Phase
  currentIndex : Nat
  cycleComplete : Bool
  fault : Option FaultKind
  /-- Every fault raised in the run, oldest first; no operation removes one (R258). -/
  faultRecord : List FaultKind
  /-- The result of the last operation; `none` before the first (R79). -/
  result : Option Result
  /-- The events of the last operation, in order (R12, R79). -/
  events : List Event
  /-- The host's transactions not yet performed, the next one first (R3, R62). -/
  port : List HostWord
  /-- N_MAX and ATTRIBUTION, which no operation writes (R32). -/
  params : Params
  deriving DecidableEq, Repr

/-- The reasons a step stops with a fault. None is a fault of the spec (those are recorded in `State.fault` and the
machine goes on, R257): each is the use of a table at an index outside it, in a state that the invariants of R36 rule
out. SAFE: the spec gives no value there, and no reachable state raises one. -/
inductive Fault where
  /-- TX_PEEK or TX_COMMIT at a `currentIndex` outside `reqBuf`. Safe. -/
  | reqBufIndex
  /-- RX, DECODE or RSP_FRAME at an index outside `pollList`: of the registry, or `currentIndex` under Strict. Safe. -/
  | pollListIndex
  /-- RX's advance modulo N with N = 0, which R224 rules out. Safe. -/
  | advanceModuloZero
  deriving DecidableEq, Repr

/-- The reasons a step is refused. -/
inductive Refusal where
  /-- Raised by an arm of `exec` for an instruction without a meaning; no arm does. Safe. -/
  | notModelled (mnemonic : String)
  /-- Raised by `step` alone, for a word that spells no instruction: not a request frame the block sends, or a
  response word shorter than the format's 19 bytes. Every port transaction spells an operation. Safe. -/
  | undecodable (why : DecodeReject)
  deriving DecidableEq, Repr

/-- Power-on reset: the state of `CONFIGURE 0x3FF, []` (R280, R35), with no fault raised yet, no operation performed and
no transaction waiting. -/
def State.reset : State :=
  { station := 0x3FF#12
    N := 0
    pollList := []
    reqBuf := []
    registry := []
    phase := .idle
    currentIndex := 0
    cycleComplete := false
    fault := none
    faultRecord := []
    result := none
    events := []
    port := []
    params := Config.params }

end Sys2Proof.Machine
end

