-- ==== Sys2Proof/Machine/Flags.lean ====
section
/-! DEFINITION. The block has no processor flags (spec/10_state.md R31). Its two status bits are `cycleComplete` (R28)
and `fault` (R29); this file holds the writes of both, and the numeric codes of spec/30_encoding.md R82. -/

namespace Sys2Proof.Machine

/-- Entry into CYCLE_DONE: `phase` and its named copy `cycleComplete` are written together (R28, R224). -/
def State.enterCycleDone (s : State) : State := { s with phase := .cycleDone, cycleComplete := true }

/-- The fault register keeps the first fault (R256, R257); the run-level record keeps every one (R258). -/
def State.recordFault (k : FaultKind) (s : State) : State :=
  { s with
    fault := s.fault.or (some k)
    faultRecord := s.faultRecord ++ [k] }

/-- The 2-bit encoding of `phase` (R26, R82). -/
def phaseCode : Phase → BitVec 2
  | .idle => 0
  | .sendPending => 1
  | .responsePending => 2
  | .cycleDone => 3

/-- The codes of the continuation signal (R82). -/
def signalCode : Signal → Nat
  | .idle => 0
  | .wantWrite => 1
  | .stop => 2

/-- The codes of the decode errors (R82, R250). -/
def decodeErrorCode : DecodeError → Nat
  | .truncatedFrame => 1
  | .malformedStart => 2
  | .checksumMismatch => 3
  | .malformedField => 4
  | .addressMismatch => 5
  | .lengthMismatch => 6
  | .unknownCommandKey => 7
  | .unexpectedResponse => 8

/-- The codes of the configuration errors (R82). -/
def configErrorCode : ConfigError → Nat
  | .stationOutOfRange => 1
  | .deviceOutOfRange _ => 2
  | .commandOutOfRange _ => 3
  | .tooManyEntries => 4

/-- The codes of the faults (R82, R256). -/
def faultCode : FaultKind → Nat
  | .illegalOp => 1
  | .commitCountInvalid => 2
  | .commitWithoutBuffer => 3

end Sys2Proof.Machine
end

