-- ==== Sys2Proof/Machine/Ops.lean ====
section
/-! DEFINITION. The operations that the meanings share: returning a result, raising a fault, the refusal while a fault
is set, and the registry. -/

namespace Sys2Proof.Machine

/-- What an operation of the block answers. -/
abbrev Answer := Host.Outcome State Fault Refusal

/-- The end of an operation: its result and its events replace those of the operation before (R79, R12). -/
def State.finish (r : Result) (es : List Event) (s : State) : State := { s with result := some r, events := es }

/-- `return r` of an operation without events. -/
def State.respond (r : Result) (s : State) : State := s.finish r []

/-- `raise Fault(kind)`, the block's one exception entry (R256, R257): the kind is recorded, the result is
`fault(kind)`, and no other field of R21 is written. There is no return from it: only CONFIGURE clears it (R258). -/
def raiseFault (k : FaultKind) (s : State) : Answer := .next ((s.recordFault k).respond (.fault k))

/-- `if s.fault != none: return refused(s.fault)`, the first line of TX_PEEK, TX_COMMIT and RX (R231). -/
def unlessFaulted (s : State) (body : Answer) : Answer :=
  match s.fault with
  | some k => .next (s.respond (.refused k))
  | none => body

/-- `m[k] <- i`: an insertion for a bound key replaces the earlier binding (R183). -/
def registryInsert (k : ResponseKey) (i : Nat) : Registry → Registry
  | [] => [(k, i)]
  | (k', j) :: rest =>
    if k = k' then (k, i) :: rest
    else if k.rank < k'.rank then (k, i) :: (k', j) :: rest
    else (k', j) :: registryInsert k i rest

/-- `registry(k)`: both components compared exactly (R184). -/
def registryLookup (k : ResponseKey) : Registry → Option Nat
  | [] => none
  | (k', j) :: rest => if k = k' then some j else registryLookup k rest

/-- The insertions of R183 for the entries from index `i` on. -/
def bindFrom (m : Registry) (i : Nat) : List CommandEntry → Registry
  | [] => m
  | e :: rest => bindFrom (registryInsert e.key i m) (i + 1) rest

/-- `buildRegistry(L)` (R183). -/
def buildRegistry (entries : List CommandEntry) : Registry := bindFrom [] 0 entries

/-- The next transaction the host has put to the port, and the state without it (R3, R62). -/
def fetch (s : State) : Option (HostWord × State) :=
  match s.port with
  | [] => none
  | w :: rest => some (w, { s with port := rest })

end Sys2Proof.Machine
end

