-- ==== Sys2Proof/Machine/Checksum.lean ====
section
/-! DEFINITION. The checksum unit (spec/40_checksum.md). -/

namespace Sys2Proof.Machine

/-- CKSUM (R100): a pure function of its buffer. -/
def execCksum (bytes : Buffer) (s : State) : Answer := .next (s.respond (.buffer (checksum bytes)))

end Sys2Proof.Machine
end

