-- ==== Sys2Proof/Machine/Decoder.lean ====
section
/-! DEFINITION. The response decoder and checksum validator (spec/42_decoder.md). -/

namespace Sys2Proof.Machine

/-- Steps 6 and 7 and the success (R147 to R149), for the three fields read in step 4. -/
def matchResponse (b : Buffer) (registry : Registry) (list : List CommandEntry) (dst src cmd : Nat) :
    Option DecodeResult :=
  match unhex (slice b 13 15) with
  | none => some (.err .malformedField)
  | some size =>
    if (slice b 15 (b.length - 4)).length ≠ size * 2 then some (.err .lengthMismatch)
    else
      match registryLookup ⟨BitVec.ofNat 12 src, BitVec.ofNat 12 cmd⟩ registry with
      | none => some (.err .unknownCommandKey)
      | some i => list[i]?.map fun entry =>
          .ok { destinationAddress := BitVec.ofNat 12 dst
                sourceAddress := BitVec.ofNat 12 src
                commandCode := BitVec.ofNat 12 cmd
                payload := slice b 15 (b.length - 4)
                reportedSize := size
                matchedIndex := i
                matchedCommand := entry }

/-- `decodeResponse(b, station, registry)` with the poll list the registry indexes: the checks in their order, the first
failing one decides (R140, R141). `none` only where the registry names an index outside the list (R36 rules it out). -/
def decodeResponse (b : Buffer) (station : Addr) (registry : Registry) (list : List CommandEntry) :
    Option DecodeResult :=
  if b.length < rspMinLen then some (.err .truncatedFrame)
  else if b[0]? ≠ some sofByte then some (.err .malformedStart)
  else if checksum (slice b 0 (b.length - 4)) ≠ slice b (b.length - 4) (b.length - 2) then
    some (.err .checksumMismatch)
  else
    match unhex (slice b 1 4), unhex (slice b 4 7), unhex (slice b 7 10) with
    | some dst, some src, some cmd =>
      if dst ≠ station.toNat then some (.err .addressMismatch) else matchResponse b registry list dst src cmd
    | _, _, _ => some (.err .malformedField)

/-- `decodeResponse` over the session's station, registry and poll list, its answer the result; no state is written
(R140, R152). -/
def decodeOnPort (b : Buffer) (s : State) : Answer :=
  match decodeResponse b s.station s.registry s.pollList with
  | some r => .next (s.respond (.decoded r))
  | none => .fault .pollListIndex

/-- DECODE (R152): allowed in every phase and while `fault` is set. -/
def execDecode (bytes : Buffer) (s : State) : Answer := decodeOnPort bytes s

/-- RSP_FRAME (R73, R140): the frame's bytes are put to the decoder. DESIGN CHOICE (log 6). -/
def execRspFrame (fields : RspFields) (s : State) : Answer := decodeOnPort (rspBytes fields) s

end Sys2Proof.Machine
end

