-- ==== Sys2Proof/Machine/Encoder.lean ====
section
/-! DEFINITION. The request encoder (spec/41_encoder.md) and the request frame (spec/30_encoding.md R71). -/

namespace Sys2Proof.Machine

/-- ENCODE (R120): natural operands of any size, each masked to 12 bits (R123). -/
def execEncode (dest stn cmd : Nat) (s : State) : Answer := .next (s.respond (.buffer (encodeRequest dest stn cmd)))

/-- REQ_FRAME (R71, R120): the frame of three 12-bit fields is assembled and put out; the block's state is not written.
DESIGN CHOICE (log 6). -/
def execReqFrame (dest stn cmd : Addr) (s : State) : Answer :=
  .next (s.respond (.buffer (encodeRequest dest.toNat stn.toNat cmd.toNat)))

end Sys2Proof.Machine
end

