-- ==== Sys2Proof/Machine/Sequencer.lean ====
section
/-! DEFINITION. The poll session sequencer and dispatch (spec/44_sequencer.md), and the reserved operation codes
(spec/30_encoding.md R81). -/

namespace Sys2Proof.Machine

/-- TX_PEEK (R201): the request for `currentIndex`, in SEND_PENDING and, as a resend offer, in RESPONSE_PENDING. -/
def execTxPeek (s : State) : Answer :=
  unlessFaulted s <|
    if s.N = 0 ∨ s.phase = .cycleDone then .next (s.respond (.offer none))
    else
      match s.reqBuf[s.currentIndex]? with
      | some b => .next (s.respond (.offer (some b)))
      | none => .fault .reqBufIndex

/-- TX_COMMIT with a count `n > 0` while a buffer is offered (R211, R213, R214). -/
def commitCount (n : Nat) (s : State) : Answer :=
  match s.reqBuf[s.currentIndex]? with
  | none => .fault .reqBufIndex
  | some b =>
    if n = b.length then
      if s.phase = .sendPending then .next ({ s with phase := .responsePending }.respond .ok)
      else .next (s.respond .ok)
    else raiseFault .commitCountInvalid s

/-- TX_COMMIT (R210). -/
def execTxCommit (n : Nat) (s : State) : Answer :=
  unlessFaulted s <|
    if n = 0 then .next (s.respond .ok)
    else
      match s.phase with
      | .sendPending => commitCount n s
      | .responsePending => commitCount n s
      | .idle => raiseFault .commitWithoutBuffer s
      | .cycleDone => raiseFault .commitWithoutBuffer s

/-- A frame that does not advance the cycle: one `Rejected` event, signal `idle`, nothing written (R222, R227). -/
def rejectResponse (k : DecodeError) (s : State) : Answer := .next (s.finish (.signal .idle) [.rejected k])

/-- The dispatch event, then the advance by one modulo N (R223, R224, R226). -/
def dispatchAndAdvance (entry : CommandEntry) (payload : Buffer) (ts : Ts) (s : State) : Answer :=
  if s.N = 0 then .fault .advanceModuloZero
  else if (s.currentIndex + 1) % s.N = 0 then
    .next (({ s with currentIndex := 0 }.enterCycleDone).finish (.signal .stop)
      [.dispatched entry payload ts s.currentIndex])
  else
    .next ({ s with currentIndex := (s.currentIndex + 1) % s.N, phase := .sendPending }.finish (.signal .wantWrite)
      [.dispatched entry payload ts s.currentIndex])

/-- Which entry a decoded response is attributed to (R225, R227). -/
def attributeResponse (r : ResponseRecord) (ts : Ts) (s : State) : Answer :=
  match s.params.attribution with
  | .lenient => dispatchAndAdvance r.matchedCommand r.payload ts s
  | .strict =>
    match s.pollList[s.currentIndex]? with
    | none => .fault .pollListIndex
    | some outstanding =>
      if ResponseKey.mk r.sourceAddress r.commandCode ≠ outstanding.key then rejectResponse .unexpectedResponse s
      else dispatchAndAdvance outstanding r.payload ts s

/-- RX in RESPONSE_PENDING (R222, R223). -/
def receiveResponse (bytes : Buffer) (ts : Ts) (s : State) : Answer :=
  match decodeResponse bytes s.station s.registry s.pollList with
  | none => .fault .pollListIndex
  | some (.err k) => rejectResponse k s
  | some (.ok r) => attributeResponse r ts s

/-- RX (R220): outside RESPONSE_PENDING the buffer is not decoded (R221). -/
def execRx (bytes : Buffer) (ts : Ts) (s : State) : Answer :=
  unlessFaulted s <|
    match s.phase with
    | .idle => .next (s.finish (.signal .idle) [.ignored s.phase])
    | .sendPending => .next (s.finish (.signal .idle) [.ignored s.phase])
    | .cycleDone => .next (s.finish (.signal .stop) [.ignored s.phase])
    | .responsePending => receiveResponse bytes ts s

/-- The record STATUS reads out (R230). -/
def State.statusRecord (s : State) : StatusRecord :=
  { phase := s.phase
    currentIndex := s.currentIndex
    N := s.N
    station := s.station
    cycleComplete := s.cycleComplete
    fault := s.fault }

/-- STATUS (R230): allowed in every phase and while `fault` is set. -/
def execStatus (s : State) : Answer := .next (s.respond (.status s.statusRecord))

/-- A reserved operation code (R81): IllegalOp, whatever the code, and also while an earlier fault is set (R231). -/
def execReserved (_op : BitVec 4) (s : State) : Answer := raiseFault .illegalOp s

end Sys2Proof.Machine
end

