-- ==== Sys2Proof/Machine/Table.lean ====
section
/-! DEFINITION. The command table and session construction (spec/43_command_table.md). -/

namespace Sys2Proof.Machine

/-- `checkConfig(st, L)`: the first configuration error in the order of R181; every device address is scanned before
any command code, each for its lowest index. -/
def checkConfig (nMax station : Nat) (list : List EntryArg) : Option ConfigError :=
  if 0x1000 ≤ station then some .stationOutOfRange
  else if nMax < list.length then some .tooManyEntries
  else
    match list.findIdx? (fun e => decide (0x1000 ≤ e.deviceAddress)) with
    | some i => some (.deviceOutOfRange i)
    | none =>
      match list.findIdx? (fun e => decide (0x1000 ≤ e.commandCode)) with
      | some i => some (.commandOutOfRange i)
      | none => none

/-- An entry as the table holds it, its two fields below 0x1000 (R21, R181). -/
def entryOf (e : EntryArg) : CommandEntry :=
  { deviceAddress := BitVec.ofNat 12 e.deviceAddress
    commandCode := BitVec.ofNat 12 e.commandCode
    metadata := e.metadata }

/-- The state a successful CONFIGURE writes: every field of R21, all together (R180, R35). -/
def State.configured (station : Nat) (list : List EntryArg) (s : State) : State :=
  { s with
    station := BitVec.ofNat 12 station
    N := list.length
    pollList := list.map entryOf
    reqBuf := list.map fun e => encodeRequest e.deviceAddress station e.commandCode
    registry := buildRegistry (list.map entryOf)
    phase := if 0 < list.length then .sendPending else .idle
    currentIndex := 0
    cycleComplete := false
    fault := none }

/-- CONFIGURE (R180): allowed in every phase and while `fault` is set; a rejected one writes nothing (R181). -/
def execConfigure (station : Nat) (list : List EntryArg) (s : State) : Answer :=
  match checkConfig s.params.nMax station list with
  | some reason => .next (s.respond (.configError reason))
  | none => .next ((s.configured station list).respond .ok)

end Sys2Proof.Machine
end

