-- ==== Sys2Proof/Machine/Dispatch.lean ====
section
/-! DEFINITION. The meaning of each row of spec/opcode_table.json (spec/30_encoding.md R80). -/

namespace Sys2Proof.Machine

def exec (i : Instr) (s : State) : Host.Outcome State Fault Refusal :=
  match i with
  | .configure station list => Sys2Proof.Machine.execConfigure station list s
  | .txPeek => Sys2Proof.Machine.execTxPeek s
  | .txCommit n => Sys2Proof.Machine.execTxCommit n s
  | .rx bytes ts => Sys2Proof.Machine.execRx bytes ts s
  | .cksum bytes => Sys2Proof.Machine.execCksum bytes s
  | .encode dest stn cmd => Sys2Proof.Machine.execEncode dest stn cmd s
  | .decode bytes => Sys2Proof.Machine.execDecode bytes s
  | .status => Sys2Proof.Machine.execStatus s
  | .reserved op => Sys2Proof.Machine.execReserved op s
  | .reqFrame dest stn cmd => Sys2Proof.Machine.execReqFrame dest stn cmd s
  | .rspFrame fields => Sys2Proof.Machine.execRspFrame fields s

end Sys2Proof.Machine
end

