-- ==== Sys2Proof/Machine/Step.lean ====
section
/-! DEFINITION. One step: the block performs the host's next transaction, completely and before any other
(spec/00_scope.md R3, spec/20_memory.md R62). -/

namespace Sys2Proof.Machine

/-- The block never starts a step itself (R20): with no transaction at the port it holds its state unchanged (R267). -/
def step (s : State) : Host.Outcome State Fault Refusal :=
  match fetch s with
  | none => .next s
  | some (w, s') =>
    match decode w with
    | .ok i => exec i s'
    | .error why => .refused (.undecodable why)

/-- The instruction that the opcode table numbers `w`, put to the port before every waiting transaction. -/
def State.withFetchWord (s : State) (nbits w : Nat) : State := { s with port := wordOfTable nbits w :: s.port }

end Sys2Proof.Machine
end

