-- ==== Sys2Proof/Safety.lean ====
section
/-! DEFINITION. The terms that claims are stated in: the invariants of spec/10_state.md R36, runs of operations with
their events, the host's contract, and the renaming of the opaque tokens META and TS. -/

namespace Sys2Proof.Machine

/-- `i` is the largest index of a poll list whose entry has the key `k` (R36.5, R183). -/
def LastIndexOf (k : ResponseKey) (entries : List CommandEntry) (i : Nat) : Prop :=
  entries[i]?.map CommandEntry.key = some k ∧ ∀ j, entries[j]?.map CommandEntry.key = some k → j ≤ i

/-- The invariants of R36, with what R8, R21 and R27 add: the table fits its capacity, the index of an empty table is 0;
and two of the model's own: the registry's canonical form, and a set fault stands in the run-level record (R258). -/
structure SessionInv (s : State) : Prop where
  idle_iff_empty : s.phase = .idle ↔ s.N = 0
  index_below : 0 < s.N → s.currentIndex < s.N
  index_zero_when_empty : s.N = 0 → s.currentIndex = 0
  cycleComplete_iff : s.cycleComplete = true ↔ s.phase = .cycleDone
  pollList_length : s.pollList.length = s.N
  reqBuf_exact : s.reqBuf = s.pollList.map fun e =>
    encodeRequest e.deviceAddress.toNat s.station.toNat e.commandCode.toNat
  registry_canonical : s.registry.wf = true
  registry_exact : ∀ k i, registryLookup k s.registry = some i ↔ LastIndexOf k s.pollList i
  done_at_zero : s.phase = .cycleDone → s.currentIndex = 0
  within_capacity : s.N ≤ s.params.nMax
  capacity_positive : 1 ≤ s.params.nMax
  fault_recorded : ∀ k, s.fault = some k → k ∈ s.faultRecord

/-- The operands that CONFIGURE accepts (R181). -/
def ConfigInRange (nMax station : Nat) (list : List EntryArg) : Prop :=
  station < 0x1000 ∧ list.length ≤ nMax ∧ ∀ e ∈ list, e.deviceAddress < 0x1000 ∧ e.commandCode < 0x1000

/-- The state right after CONFIGURE, before its result is put out: what R35's table gives for `CONFIGURE(st, L)`. -/
def AfterConfigure (station : Nat) (list : List EntryArg) (s t : State) : Prop :=
  t.station = BitVec.ofNat 12 station ∧ t.N = list.length ∧ t.pollList = list.map entryOf ∧
    t.reqBuf = (list.map fun e => encodeRequest e.deviceAddress station e.commandCode) ∧
    t.registry = buildRegistry (list.map entryOf) ∧
    t.phase = (if 0 < list.length then .sendPending else .idle) ∧ t.currentIndex = 0 ∧
    t.cycleComplete = false ∧ t.fault = none ∧
    t.faultRecord = s.faultRecord ∧ t.port = s.port ∧ t.params = s.params

/-- Two states hold the same session: every field of R21 but `fault` (spec/60_exceptions.md R257: "`phase`,
`currentIndex` and every table"), the parameters and the waiting transactions. -/
def SameSession (s t : State) : Prop :=
  t.station = s.station ∧ t.N = s.N ∧ t.pollList = s.pollList ∧ t.reqBuf = s.reqBuf ∧ t.registry = s.registry ∧
    t.phase = s.phase ∧ t.currentIndex = s.currentIndex ∧ t.cycleComplete = s.cycleComplete ∧
    t.port = s.port ∧ t.params = s.params

/-- An operation is a CONFIGURE. -/
def isConfigure : Instr → Bool
  | .configure _ _ => true
  | .txPeek => false
  | .txCommit _ => false
  | .rx _ _ => false
  | .cksum _ => false
  | .encode _ _ _ => false
  | .decode _ => false
  | .status => false
  | .reserved _ => false
  | .reqFrame _ _ _ => false
  | .rspFrame _ => false

/-- The host's contract for one operation (R290, R256): no reserved code, a count of 0 or 20 while a buffer is offered,
and of 0 where none is. -/
def HostKeepsContract (s : State) : Instr → Prop
  | .configure _ _ => True
  | .txPeek => True
  | .txCommit n => n = 0 ∨ (n = reqLen ∧ (s.phase = .sendPending ∨ s.phase = .responsePending))
  | .rx _ _ => True
  | .cksum _ => True
  | .encode _ _ _ => True
  | .decode _ => True
  | .status => True
  | .reserved _ => False
  | .reqFrame _ _ _ => True
  | .rspFrame _ => True

/-- Performs operations in order, each completely before the next (R62), and lists the events they emit; `none` where
one does not answer a next state. -/
def runTrace : List Instr → State → Option (List Event × State)
  | [], s => some ([], s)
  | i :: rest, s =>
    match exec i s with
    | .next t => (runTrace rest t).map fun out => (t.events ++ out.1, out.2)
    | .fault _ => none
    | .refused _ => none

/-- The rounds of R232: `TX_COMMIT 20`, then an RX of one buffer with its timestamp. -/
def pollRounds (responses : List (Buffer × Ts)) : List Instr :=
  responses.flatMap fun r => [.txCommit reqLen, .rx r.1 r.2]

/-- The dispatch events of a cycle in which entry `j` is answered by the `j`-th response (R226, R232). -/
def cycleDispatches (list : List EntryArg) (responses : List (Buffer × Ts)) : List Event :=
  (list.zip responses).mapIdx fun j p =>
    .dispatched (entryOf p.1) (slice p.2.1 15 (p.2.1.length - 4)) p.2.2 j

/-- An event is a dispatch. -/
def isDispatch : Event → Bool
  | .ignored _ => false
  | .rejected _ => false
  | .dispatched _ _ _ _ => true

/-- In the session of `s` the buffer does not advance the cycle: it fails a check of the decoder, or under Strict it
answers for another key than the outstanding entry's (R222, R227, R250). -/
def FailsToAdvance (s : State) (b : Buffer) : Prop :=
  (∃ k, decodeResponse b s.station s.registry s.pollList = some (.err k)) ∨
    (s.params.attribution = .strict ∧ ∃ r e,
      decodeResponse b s.station s.registry s.pollList = some (.ok r) ∧ s.pollList[s.currentIndex]? = some e ∧
        ResponseKey.mk r.sourceAddress r.commandCode ≠ e.key)

/-! The renaming of the opaque tokens: `f` on metadata, `g` on timestamps (R8, D14, D15). -/

/-- Renames an operand entry's metadata. -/
def EntryArg.rename (f : Meta → Meta) (e : EntryArg) : EntryArg := { e with metadata := f e.metadata }

/-- Renames a table entry's metadata. -/
def CommandEntry.rename (f : Meta → Meta) (e : CommandEntry) : CommandEntry := { e with metadata := f e.metadata }

/-- Renames the tokens of an instruction. -/
def renameInstr (f : Meta → Meta) (g : Ts → Ts) : Instr → Instr
  | .configure station list => .configure station (list.map (EntryArg.rename f))
  | .txPeek => .txPeek
  | .txCommit n => .txCommit n
  | .rx bytes ts => .rx bytes (g ts)
  | .cksum bytes => .cksum bytes
  | .encode dest stn cmd => .encode dest stn cmd
  | .decode bytes => .decode bytes
  | .status => .status
  | .reserved op => .reserved op
  | .reqFrame dest stn cmd => .reqFrame dest stn cmd
  | .rspFrame fields => .rspFrame fields

/-- Renames the tokens of a word of the port. -/
def HostWord.rename (f : Meta → Meta) (g : Ts → Ts) : HostWord → HostWord
  | .port w => .port { w with ts := g w.ts, list := w.list.map (EntryArg.rename f) }
  | .req20 b => .req20 b
  | .rspv b => .rspv b

/-- Renames the tokens of a decode result. -/
def DecodeResult.rename (f : Meta → Meta) : DecodeResult → DecodeResult
  | .ok r => .ok { r with matchedCommand := r.matchedCommand.rename f }
  | .err k => .err k

/-- Renames the tokens of a result. -/
def Result.rename (f : Meta → Meta) : Result → Result
  | .ok => .ok
  | .configError reason => .configError reason
  | .offer b => .offer b
  | .signal x => .signal x
  | .buffer b => .buffer b
  | .decoded r => .decoded (r.rename f)
  | .status r => .status r
  | .refused k => .refused k
  | .fault k => .fault k

/-- Renames the tokens of an event. -/
def Event.rename (f : Meta → Meta) (g : Ts → Ts) : Event → Event
  | .ignored p => .ignored p
  | .rejected k => .rejected k
  | .dispatched e payload ts i => .dispatched (e.rename f) payload (g ts) i

/-- Renames the tokens of a state. -/
def State.rename (f : Meta → Meta) (g : Ts → Ts) (s : State) : State :=
  { s with
    pollList := s.pollList.map (CommandEntry.rename f)
    result := s.result.map (Result.rename f)
    events := s.events.map (Event.rename f g)
    port := s.port.map (HostWord.rename f g) }

/-- Renames the tokens of an answer. -/
def renameAnswer (f : Meta → Meta) (g : Ts → Ts) : Answer → Answer
  | .next s => .next (s.rename f g)
  | .fault r => .fault r
  | .refused r => .refused r

end Sys2Proof.Machine
end

