-- ==== Sys2Proof/Certificates/Slice0/Obligations.lean ====
section
/-! DEFINITION. The statements for the provers. Each docstring names the rule of spec/ that it formalises; a statement
that rests on a choice of the model says so and names the log entry. `result` and `events` are the outputs of the
operation (log 3); a next state written `{ s with … }` is also the operation's frame. -/

open Sys2Proof Sys2Proof.Machine

/-! ### Encodings (spec/30_encoding.md) -/

/-- Decode and encode agree on every well-formed instruction: no operand of any encoding is dropped (R71, R73, R80, R81;
the operand lines of a port transaction are the model's, log 4). -/
def Obligations.DecodeInvertsEncode : Prop :=
  ∀ i : Instr, i.wf = true → decode (encode i) = .ok i

/-- What a word decodes to is well formed; a frame word is the encoding of its instruction, and a port word keeps its
operation code (R71, R73, R79). That a request frame spells its instruction in one way only, the exact uppercase frame of
R120, is the model's choice, read from R71 and R77 (log 11); so is which operand lines of a port word a row reads (log 4),
of which this statement says nothing. -/
def Obligations.DecodedInstrIsWellFormed : Prop :=
  ∀ (w : HostWord) (i : Instr), decode w = .ok i →
    i.wf = true ∧
      match w with
      | .port p => ∃ q : PortWord, encode i = .port q ∧ q.op = p.op
      | .req20 b => encode i = .req20 b
      | .rspv b => encode i = .rspv b

/-- Words decode to the instructions they stand for: the operation codes of R80 and R81, and the two frames of `V1` and
`V2`. The spec gives a port transaction's operands no bits: that an 8-bit number stands for the operation with OP in its
low four bits and every operand line zero or empty (the ten clauses of `decodeTableWord`) is the model's choice (log 4),
and the timestamp it takes is the model's token 0 (log 2). -/
def Obligations.SpecWordsDecode : Prop :=
  decodeTableWord 8 0x0 = some (.configure 0 []) ∧ decodeTableWord 8 0x1 = some .txPeek ∧
    decodeTableWord 8 0x2 = some (.txCommit 0) ∧ decodeTableWord 8 0x3 = some (.rx [] .base) ∧
    decodeTableWord 8 0x4 = some (.cksum []) ∧ decodeTableWord 8 0x5 = some (.encode 0 0 0) ∧
    decodeTableWord 8 0x6 = some (.decode []) ∧ decodeTableWord 8 0x7 = some .status ∧
    decodeTableWord 8 0x8 = some (.reserved 0x8#4) ∧ decodeTableWord 8 0xF = some (.reserved 0xF#4) ∧
    decode (.req20 (ascii "@0013FF0060000044*\r\n")) = .ok (.reqFrame 0x001#12 0x3FF#12 0x006#12) ∧
    decode (.rspv (ascii "@3FF00100600001AB46*\n")) = .ok (.rspFrame {
      sof := 0x40#8, dest := ascii "3FF", src := ascii "001", cmd := ascii "006", rsvd3 := ascii "000"
      size := ascii "01", payload := ascii "AB", crc := ascii "46", term2 := ascii "*\n" })

/-- A step performs the host's next transaction: it is `exec` of the instruction that the word at the front of the port
decodes to, in the state with that word taken away. That the host's transactions wait in a list, the next one first, is
the model's choice (log 5); so is the refusal by name of a word that spells no instruction, for which the spec has no
operation (log 11). -/
def Obligations.StepRunsDecodedInstr : Prop :=
  ∀ (s : State) (w : HostWord) (rest : List HostWord), s.port = w :: rest →
    (∀ i, decode w = .ok i → step s = exec i { s with port := rest }) ∧
      (∀ why, decode w = .error why → step s = .refused (.undecodable why))

/-- With no transaction at the port the block holds its state unchanged (R20, R267). The list of waiting transactions is
the model's (log 5). -/
def Obligations.StepHoldsStateWhenIdlePort : Prop :=
  ∀ s : State, s.port = [] → step s = .next s

/-- Hex text (R11): `hexN` is `n` digits of `0123456789ABCDEF`, digit `j` the `j`-th from the most significant; `unhex`
reads it back modulo 16^n; it fails exactly on the empty field and on a field with a byte that is no hex digit; and the
two letter cases read alike. -/
def Obligations.HexTextReadsBack : Prop :=
  (∀ n v : Nat, (hexN n v).length = n ∧
      (∀ j, j < n → (hexN n v)[j]? = (ascii "0123456789ABCDEF")[v / 16 ^ (n - 1 - j) % 16]?) ∧
      (0 < n → unhex (hexN n v) = some (v % 16 ^ n))) ∧
    (∀ f : Buffer, unhex f = none ↔ f = [] ∨ ∃ c ∈ f, c ∉ ascii "0123456789ABCDEFabcdef") ∧
    (∀ (p q : Buffer) (i : Nat) (u l : Byte), (ascii "ABCDEF")[i]? = some u → (ascii "abcdef")[i]? = some l →
      unhex (p ++ u :: q) = unhex (p ++ l :: q))

/-! ### Checksum and request encoder (spec/40_checksum.md, spec/41_encoder.md) -/

/-- CKSUM (R100), OP 0x4: the XOR of the bytes in two uppercase hex digits; no state written; with the rule's corner
cases and its example. The operand line of the port word in the last clause is the model's choice
(log 4). -/
def Obligations.CksumAnswersXorInHex : Prop :=
  (∀ (b : Buffer) (s : State), exec (.cksum b) s =
      .next { s with result := some (.buffer (hexN 2 (b.foldl (fun x y => x ^^^ y) 0#8).toNat)), events := [] }) ∧
    checksum [] = ascii "00" ∧ (∀ x : Byte, checksum [x] = hexN 2 x.toNat) ∧
    (∀ x : Byte, checksum [x, x] = ascii "00") ∧ checksum [0x05#8] = ascii "05" ∧ checksum [0x2D#8] = ascii "2D" ∧
    checksum (ascii "@0013FF00600000") = ascii "44" ∧
    ∀ p : PortWord, p.op = 0x4#4 → decode (.port p) = .ok (.cksum p.bytes)

/-- R103: determinism; a flip of bit `k` of one byte flips bit `k` of the XOR and changes the checksum; a permutation of
the bytes keeps it; the same flip in two different bytes keeps it; and the rule's pair of headers. -/
def Obligations.ChecksumSensitivity : Prop :=
  (∀ b b' : Buffer, b = b' → checksum b = checksum b') ∧
    (∀ (p q : Buffer) (x : Byte) (k : Nat), k < 8 →
      xorAll (p ++ (x ^^^ (1#8 <<< k)) :: q) = xorAll (p ++ x :: q) ^^^ (1#8 <<< k) ∧
        checksum (p ++ (x ^^^ (1#8 <<< k)) :: q) ≠ checksum (p ++ x :: q)) ∧
    (∀ b b' : Buffer, b.Perm b' → checksum b = checksum b') ∧
    (∀ (p q r : Buffer) (x y : Byte) (k : Nat), k < 8 →
      checksum (p ++ (x ^^^ (1#8 <<< k)) :: (q ++ (y ^^^ (1#8 <<< k)) :: r)) = checksum (p ++ x :: (q ++ y :: r))) ∧
    checksum (ascii "@0013FF00600000") = ascii "44" ∧ checksum (ascii "@3FF00100600000") = ascii "44"

/-- ENCODE (R120), OP 0x5: header of 15 bytes, checksum of the header, terminator; no state written; with the rule's
corner cases and its example. The operand lines of the port word in the last clause are the model's choice
(log 4). -/
def Obligations.EncodeAnswersRequestFrame : Prop :=
  (∀ (dest stn cmd : Nat) (s : State), ∃ hdr : Buffer,
      hdr = ascii "@" ++ hexN 3 (dest % 0x1000) ++ hexN 3 (stn % 0x1000) ++ hexN 3 (cmd % 0x1000) ++ ascii "00000" ∧
        hdr.length = 15 ∧
        exec (.encode dest stn cmd) s =
          .next { s with result := some (.buffer (hdr ++ checksum hdr ++ ascii "*\r\n")), events := [] }) ∧
    encodeRequest 0 0 0 = ascii "@0000000000000040*\r\n" ∧
    encodeRequest 0xFFF 0xFFF 0xFFF = ascii "@FFFFFFFFF0000036*\r\n" ∧
    encodeRequest 0x1001 0x3FF 0x2006 = encodeRequest 0x001 0x3FF 0x006 ∧
    encodeRequest 0x001 0x3FF 0x006 = ascii "@0013FF0060000044*\r\n" ∧
    ∀ p : PortWord, p.op = 0x5#4 → decode (.port p) = .ok (.encode p.nat1 p.nat2 p.nat3)

/-- The request frame, format REQ20 (R71, R124): 20 bytes, each field at its offsets, DEST, STATION and CMD readable as
the operands' low 12 bits. -/
def Obligations.RequestFrameLayout : Prop :=
  ∀ (dest stn cmd : Nat) (f : Buffer), f = encodeRequest dest stn cmd →
    f.length = 20 ∧ slice f 0 1 = ascii "@" ∧
      slice f 1 4 = hexN 3 dest ∧ unhex (slice f 1 4) = some (dest % 0x1000) ∧
      slice f 4 7 = hexN 3 stn ∧ unhex (slice f 4 7) = some (stn % 0x1000) ∧
      slice f 7 10 = hexN 3 cmd ∧ unhex (slice f 7 10) = some (cmd % 0x1000) ∧
      slice f 10 15 = ascii "00000" ∧ slice f 15 17 = hexN 2 (xorAll (slice f 0 15)).toNat ∧
      slice f 17 20 = ascii "*\r\n"

/-- ENCODE keeps bits 11..0 of each operand and no other: two requests are equal exactly when their operands agree
modulo 0x1000 (spec/41_encoder.md, masking). -/
def Obligations.EncodeKeepsLowTwelveBits : Prop :=
  ∀ d s c d' s' c' : Nat, encodeRequest d s c = encodeRequest d' s' c' ↔
    d % 0x1000 = d' % 0x1000 ∧ s % 0x1000 = s' % 0x1000 ∧ c % 0x1000 = c' % 0x1000

/-- REQ_FRAME puts out the 20-byte frame of its three fields and writes no state (R71, R120). That the row is performed
as this pure operation is the model's choice (log 6). -/
def Obligations.ReqFrameAnswersFrame : Prop :=
  ∀ (dest stn cmd : Addr) (s : State), exec (.reqFrame dest stn cmd) s =
    .next { s with
      result := some (.buffer (encodeRequest dest.toNat stn.toNat cmd.toNat)), events := [] }

/-! ### Response decoder (spec/42_decoder.md) -/

/-- The decoder's checks in the order of R141; the first that fails decides the error (R142 to R148), and if none fails
the record is that of R149. -/
def Obligations.DecodeReportsFirstFailingCheck : Prop :=
  ∀ (b : Buffer) (station : Addr) (registry : Registry) (list : List CommandEntry) (d : Option DecodeResult),
    d = decodeResponse b station registry list →
    (b.length < 19 → d = some (.err .truncatedFrame)) ∧
    (19 ≤ b.length →
      (b[0]? ≠ some 0x40#8 → d = some (.err .malformedStart)) ∧
      (b[0]? = some 0x40#8 →
        (hexN 2 (xorAll (slice b 0 (b.length - 4))).toNat ≠ slice b (b.length - 4) (b.length - 2) →
          d = some (.err .checksumMismatch)) ∧
        (hexN 2 (xorAll (slice b 0 (b.length - 4))).toNat = slice b (b.length - 4) (b.length - 2) →
          ((unhex (slice b 1 4) = none ∨ unhex (slice b 4 7) = none ∨ unhex (slice b 7 10) = none) →
            d = some (.err .malformedField)) ∧
          (∀ dst src cmd : Nat,
            unhex (slice b 1 4) = some dst → unhex (slice b 4 7) = some src → unhex (slice b 7 10) = some cmd →
            (dst < 0x1000 ∧ src < 0x1000 ∧ cmd < 0x1000) ∧
            (dst ≠ station.toNat → d = some (.err .addressMismatch)) ∧
            (dst = station.toNat →
              (unhex (slice b 13 15) = none → d = some (.err .malformedField)) ∧
              (∀ size : Nat, unhex (slice b 13 15) = some size →
                (b.length - 19 ≠ 2 * size → d = some (.err .lengthMismatch)) ∧
                (b.length - 19 = 2 * size →
                  (registryLookup ⟨BitVec.ofNat 12 src, BitVec.ofNat 12 cmd⟩ registry = none →
                    d = some (.err .unknownCommandKey)) ∧
                  (∀ (i : Nat) (e : CommandEntry),
                    registryLookup ⟨BitVec.ofNat 12 src, BitVec.ofNat 12 cmd⟩ registry = some i →
                    list[i]? = some e →
                    d = some (.ok {
                      destinationAddress := station, sourceAddress := BitVec.ofNat 12 src
                      commandCode := BitVec.ofNat 12 cmd, payload := slice b 15 (b.length - 4)
                      reportedSize := size, matchedIndex := i, matchedCommand := e })))))))))

/-- A valid response is 19 + 2 × size bytes with size 0..255, so 19 to 529 bytes and of odd length; its record carries
the station's own address and a payload of 2 × size bytes, and names the entry that the registry binds its key to
(spec/30_encoding.md lengths, spec/42_decoder.md corner cases). -/
def Obligations.ValidResponseShape : Prop :=
  ∀ (b : Buffer) (station : Addr) (registry : Registry) (list : List CommandEntry) (r : ResponseRecord),
    decodeResponse b station registry list = some (.ok r) →
    b.length = 19 + 2 * r.reportedSize ∧ r.reportedSize ≤ 255 ∧ 19 ≤ b.length ∧ b.length ≤ 529 ∧ b.length % 2 = 1 ∧
      r.destinationAddress = station ∧ r.payload.length = 2 * r.reportedSize ∧
      registryLookup ⟨r.sourceAddress, r.commandCode⟩ registry = some r.matchedIndex ∧
      list[r.matchedIndex]? = some r.matchedCommand

/-- Round trip (R234): the stitched frame of any 12-bit fields, any size 0..255 with a payload of 2 × size bytes, any 3
reserved bytes and any 2 terminator bytes decodes to a success with exactly those fields. -/
def Obligations.StitchedFrameDecodes : Prop :=
  ∀ (dst src cmd : Addr) (size : Nat) (payload r3 t2 : Buffer) (registry : Registry) (list : List CommandEntry)
    (i : Nat) (e : CommandEntry),
    size ≤ 255 → payload.length = 2 * size → r3.length = 3 → t2.length = 2 →
    registryLookup ⟨src, cmd⟩ registry = some i → list[i]? = some e →
    decodeResponse (stitchResponse dst src cmd r3 size payload t2) dst registry list = some (.ok {
      destinationAddress := dst, sourceAddress := src, commandCode := cmd, payload := payload
      reportedSize := size, matchedIndex := i, matchedCommand := e })

/-- Any request frame fed back as a response is ChecksumMismatch, always (spec/42_decoder.md, corner cases). -/
def Obligations.RequestFedBackNeverDecodes : Prop :=
  ∀ (dest stn cmd : Nat) (station : Addr) (registry : Registry) (list : List CommandEntry),
    decodeResponse (encodeRequest dest stn cmd) station registry list = some (.err .checksumMismatch)

/-- The decoder compares neither the terminator nor the reserved bytes with anything (R150): other terminator bytes, and
other reserved bytes of the same XOR, give the same answer. -/
def Obligations.TerminatorAndReservedIgnored : Prop :=
  ∀ (station : Addr) (registry : Registry) (list : List CommandEntry),
    (∀ covered t t' : Buffer, t.length = 2 → t'.length = 2 →
      decodeResponse (covered ++ t) station registry list = decodeResponse (covered ++ t') station registry list) ∧
    (∀ front r r' back : Buffer, front.length = 10 → r.length = 3 → r'.length = 3 → 6 ≤ back.length →
      xorAll r = xorAll r' →
      decodeResponse (front ++ r ++ back) station registry list =
        decodeResponse (front ++ r' ++ back) station registry list)

/-- DECODE (R152): the answer of `decodeResponse` over the session's station, registry and poll list, in every phase and
whatever `fault` holds; no state written and no event. The premise holds in every state with `SessionInv`. -/
def Obligations.DecodeAnswersWithoutTouchingSession : Prop :=
  ∀ (b : Buffer) (s : State), (∀ k i, registryLookup k s.registry = some i → i < s.pollList.length) →
    ∃ r : DecodeResult, decodeResponse b s.station s.registry s.pollList = some r ∧
      exec (.decode b) s = .next { s with result := some (.decoded r), events := [] }

/-- RSP_FRAME puts the bytes of its fields, in wire order, to the decoder and writes no state (R73, R140). That the row is
performed as this pure operation is the model's choice (log 6). -/
def Obligations.RspFrameAnswersDecode : Prop :=
  ∀ (f : RspFields) (s : State), (∀ k i, registryLookup k s.registry = some i → i < s.pollList.length) →
    ∃ r : DecodeResult,
      decodeResponse ([f.sof] ++ f.dest ++ f.src ++ f.cmd ++ f.rsvd3 ++ f.size ++ f.payload ++ f.crc ++ f.term2)
        s.station s.registry s.pollList = some r ∧
      exec (.rspFrame f) s = .next { s with result := some (.decoded r), events := [] }

/-! ### Command table and session construction (spec/43_command_table.md) -/

/-- CONFIGURE with operands in range, in any state (R180, R35, R187): the whole session is replaced at once, the fault
register cleared, and the result is `ok`. -/
def Obligations.ConfigureStartsSession : Prop :=
  ∀ (station : Nat) (list : List EntryArg) (s : State), ConfigInRange s.params.nMax station list →
    ∃ t : State, exec (.configure station list) s = .next t ∧ AfterConfigure station list s t ∧
      t.result = some .ok ∧ t.events = []

/-- CONFIGURE with an operand out of range: the first error in the order of the numbered checks of R181, each at its
lowest index; the session and `fault` stay as they were. Repeated keys are no error: every configuration in range is
accepted. That every device address comes before any command code, across entries too, is the model's reading (log 7,
DEDUCED): R181 also says "If two entries fail, the lower `i` is reported", and the model follows the numbered checks, the
rule's note and TK-7. -/
def Obligations.ConfigureRejectsFirstError : Prop :=
  ∀ (station : Nat) (list : List EntryArg) (s : State) (rejects : ConfigError → Prop),
    (rejects = fun reason => exec (.configure station list) s =
      .next { s with result := some (.configError reason), events := [] }) →
    (0x1000 ≤ station → rejects .stationOutOfRange) ∧
    (station < 0x1000 → s.params.nMax < list.length → rejects .tooManyEntries) ∧
    (station < 0x1000 → list.length ≤ s.params.nMax →
      (∀ (i : Nat) (e : EntryArg), list[i]? = some e → 0x1000 ≤ e.deviceAddress →
        (∀ (j : Nat) (e' : EntryArg), j < i → list[j]? = some e' → e'.deviceAddress < 0x1000) →
        rejects (.deviceOutOfRange i)) ∧
      ((∀ e ∈ list, e.deviceAddress < 0x1000) →
        ∀ (i : Nat) (e : EntryArg), list[i]? = some e → 0x1000 ≤ e.commandCode →
          (∀ (j : Nat) (e' : EntryArg), j < i → list[j]? = some e' → e'.commandCode < 0x1000) →
          rejects (.commandOutOfRange i))) ∧
    (ConfigInRange s.params.nMax station list →
      ∃ t, exec (.configure station list) s = .next t ∧ t.result = some .ok)

/-- The registry binds each key to the largest index that has it, and no other key; both entries of a repeated key keep
their request buffer and their place (R183). -/
def Obligations.RegistryBindsLargestIndex : Prop :=
  (∀ (entries : List CommandEntry) (k : ResponseKey) (i : Nat),
      registryLookup k (buildRegistry entries) = some i ↔ LastIndexOf k entries i) ∧
    (∀ (station : Nat) (list : List EntryArg) (s : State), ConfigInRange s.params.nMax station list →
      ∃ t : State, exec (.configure station list) s = .next t ∧ t.registry = buildRegistry t.pollList ∧
        ∀ (i : Nat) (e : EntryArg), list[i]? = some e →
          t.pollList[i]? = some (entryOf e) ∧
            t.reqBuf[i]? = some (encodeRequest e.deviceAddress station e.commandCode))

/-- Between two CONFIGUREs no operation writes `station`, `N`, `pollList`, `reqBuf` or `registry` (R186), nor a
parameter (log 1). -/
def Obligations.TablesImmutableBetweenConfigures : Prop :=
  ∀ (i : Instr) (s t : State), isConfigure i = false → exec i s = .next t →
    t.station = s.station ∧ t.N = s.N ∧ t.pollList = s.pollList ∧ t.reqBuf = s.reqBuf ∧ t.registry = s.registry ∧
      t.params = s.params

/-! ### Sequencer (spec/44_sequencer.md) -/

/-- TX_PEEK (R201): refused while a fault is set; nothing to offer with an empty table or in CYCLE_DONE; else the request
of `currentIndex`. No state is written. -/
def Obligations.TxPeekOffersRequest : Prop :=
  ∀ s : State,
    (∀ k, s.fault = some k → exec .txPeek s = .next { s with result := some (.refused k), events := [] }) ∧
    (s.fault = none → (s.N = 0 ∨ s.phase = .cycleDone) →
      exec .txPeek s = .next { s with result := some (.offer none), events := [] }) ∧
    (∀ b, s.fault = none → s.N ≠ 0 → s.phase ≠ .cycleDone → s.reqBuf[s.currentIndex]? = some b →
      exec .txPeek s = .next { s with result := some (.offer (some b)), events := [] })

/-- The send transition (R211): in SEND_PENDING, `TX_COMMIT 20` sets `phase` and nothing else. -/
def Obligations.TxCommitSendsRequest : Prop :=
  ∀ (s : State) (b : Buffer), s.fault = none → s.phase = .sendPending →
    s.reqBuf[s.currentIndex]? = some b → b.length = 20 →
    exec (.txCommit 20) s = .next { s with phase := .responsePending, result := some .ok, events := [] }

/-- Backpressure and resend (R212, R213): `TX_COMMIT 0` in any phase, and `TX_COMMIT 20` in RESPONSE_PENDING, answer `ok`
and change nothing. -/
def Obligations.TxCommitBackpressureAndResend : Prop :=
  ∀ s : State, s.fault = none →
    exec (.txCommit 0) s = .next { s with result := some .ok, events := [] } ∧
    (∀ b, s.phase = .responsePending → s.reqBuf[s.currentIndex]? = some b → b.length = 20 →
      exec (.txCommit 20) s = .next { s with result := some .ok, events := [] })

/-- A count that is not 0 or 20 while a buffer is offered (R214), and a count above 0 while none is (R215), fault; only
`fault` and the run's record are written. -/
def Obligations.TxCommitWrongCountFaults : Prop :=
  ∀ (s : State) (n : Nat), s.fault = none → n ≠ 0 →
    (∀ b, (s.phase = .sendPending ∨ s.phase = .responsePending) → s.reqBuf[s.currentIndex]? = some b →
      b.length = 20 → n ≠ 20 →
      exec (.txCommit n) s = .next { s with
        fault := some .commitCountInvalid, faultRecord := s.faultRecord ++ [.commitCountInvalid]
        result := some (.fault .commitCountInvalid), events := [] }) ∧
    ((s.phase = .idle ∨ s.phase = .cycleDone) →
      exec (.txCommit n) s = .next { s with
        fault := some .commitWithoutBuffer, faultRecord := s.faultRecord ++ [.commitWithoutBuffer]
        result := some (.fault .commitWithoutBuffer), events := [] })

/-- RX outside RESPONSE_PENDING (R221): the buffer is not decoded; `Ignored`, signal `idle`, or `stop` in CYCLE_DONE. -/
def Obligations.RxIgnoredOutsideResponsePending : Prop :=
  ∀ (b : Buffer) (ts : Ts) (s : State), s.fault = none →
    ((s.phase = .idle ∨ s.phase = .sendPending) →
      exec (.rx b ts) s = .next { s with result := some (.signal .idle), events := [.ignored s.phase] }) ∧
    (s.phase = .cycleDone →
      exec (.rx b ts) s = .next { s with result := some (.signal .stop), events := [.ignored .cycleDone] })

/-- RX of a buffer that fails to decode, in RESPONSE_PENDING (R222): `Rejected(k)`, signal `idle`, nothing changed. -/
def Obligations.RxRejectsFailedDecode : Prop :=
  ∀ (b : Buffer) (ts : Ts) (s : State) (k : DecodeError), s.fault = none → s.phase = .responsePending →
    decodeResponse b s.station s.registry s.pollList = some (.err k) →
    exec (.rx b ts) s = .next { s with result := some (.signal .idle), events := [.rejected k] }

/-- RX of a valid response under Lenient (R223, R224, R225): the registry's entry is dispatched, whichever entry is
outstanding, and the index advances by one modulo N; the advance to 0 ends the cycle. -/
def Obligations.RxLenientDispatchesAndAdvances : Prop :=
  ∀ (b : Buffer) (ts : Ts) (s : State) (r : ResponseRecord), s.fault = none → s.phase = .responsePending →
    0 < s.N → s.params.attribution = .lenient →
    decodeResponse b s.station s.registry s.pollList = some (.ok r) →
    ((s.currentIndex + 1) % s.N ≠ 0 → exec (.rx b ts) s = .next { s with
      currentIndex := (s.currentIndex + 1) % s.N, phase := .sendPending
      result := some (.signal .wantWrite)
      events := [.dispatched r.matchedCommand r.payload ts s.currentIndex] }) ∧
    ((s.currentIndex + 1) % s.N = 0 → exec (.rx b ts) s = .next { s with
      currentIndex := 0, phase := .cycleDone, cycleComplete := true
      result := some (.signal .stop)
      events := [.dispatched r.matchedCommand r.payload ts s.currentIndex] })

/-- RX of a valid response under Strict (R227): a key other than the outstanding entry's is `UnexpectedResponse` and
changes nothing; else the outstanding entry is dispatched and the index advances as under Lenient. -/
def Obligations.RxStrictDemandsOutstandingKey : Prop :=
  ∀ (b : Buffer) (ts : Ts) (s : State) (r : ResponseRecord) (e : CommandEntry), s.fault = none →
    s.phase = .responsePending → 0 < s.N → s.params.attribution = .strict →
    decodeResponse b s.station s.registry s.pollList = some (.ok r) → s.pollList[s.currentIndex]? = some e →
    ((r.sourceAddress, r.commandCode) ≠ (e.deviceAddress, e.commandCode) → exec (.rx b ts) s = .next { s with
      result := some (.signal .idle), events := [.rejected .unexpectedResponse] }) ∧
    ((r.sourceAddress, r.commandCode) = (e.deviceAddress, e.commandCode) →
      ((s.currentIndex + 1) % s.N ≠ 0 → exec (.rx b ts) s = .next { s with
        currentIndex := (s.currentIndex + 1) % s.N, phase := .sendPending
        result := some (.signal .wantWrite), events := [.dispatched e r.payload ts s.currentIndex] }) ∧
      ((s.currentIndex + 1) % s.N = 0 → exec (.rx b ts) s = .next { s with
        currentIndex := 0, phase := .cycleDone, cycleComplete := true
        result := some (.signal .stop), events := [.dispatched e r.payload ts s.currentIndex] }))

/-- Every RX that is not refused returns one signal (R228): `stop` when the cycle is done after it, `wantWrite` after an
advance that does not end the cycle, `idle` in every other case. -/
def Obligations.RxSignalFollowsPhase : Prop :=
  ∀ (b : Buffer) (ts : Ts) (s t : State), s.fault = none → exec (.rx b ts) s = .next t →
    t.result = some (.signal
      (if t.phase = .cycleDone then .stop
       else if s.phase = .responsePending ∧ t.phase = .sendPending then .wantWrite
       else .idle))

/-- From every state with `SessionInv`, every change of `phase` is a row of R200's table and happens only inside the operation
named there. -/
def Obligations.PhaseTransitions : Prop :=
  ∀ (i : Instr) (s t : State), SessionInv s → exec i s = .next t → t.phase ≠ s.phase →
    (∃ station list, i = .configure station list ∧ t.result = some .ok ∧
      ((0 < list.length ∧ t.phase = .sendPending) ∨ (list.length = 0 ∧ t.phase = .idle))) ∨
    (i = .txCommit 20 ∧ s.phase = .sendPending ∧ t.phase = .responsePending) ∨
    (∃ b ts r, i = .rx b ts ∧ s.phase = .responsePending ∧
      decodeResponse b s.station s.registry s.pollList = some (.ok r) ∧
      (((s.currentIndex + 1) % s.N ≠ 0 ∧ t.phase = .sendPending) ∨
        ((s.currentIndex + 1) % s.N = 0 ∧ t.phase = .cycleDone)))

/-- `currentIndex` moves only by CONFIGURE, which sets it to 0, and by an RX that dispatches, by one modulo N
(spec/10_state.md, `currentIndex`). -/
def Obligations.IndexMovesByOne : Prop :=
  ∀ (i : Instr) (s t : State), exec i s = .next t → t.currentIndex ≠ s.currentIndex →
    (isConfigure i = true ∧ t.result = some .ok ∧ t.currentIndex = 0) ∨
    (s.phase = .responsePending ∧ t.currentIndex = (s.currentIndex + 1) % s.N ∧
      ∃ b ts e p, i = .rx b ts ∧ t.events = [.dispatched e p ts s.currentIndex])

/-- STATUS (R230): the record of the session, in every phase and while `fault` is set; no state written. -/
def Obligations.StatusReadsSession : Prop :=
  (∀ s : State, exec .status s = .next { s with
      result := some (.status {
        phase := s.phase, currentIndex := s.currentIndex, N := s.N, station := s.station
        cycleComplete := s.cycleComplete, fault := s.fault })
      events := [] }) ∧
    exec .status State.reset = .next { State.reset with
      result := some (.status {
        phase := .idle, currentIndex := 0, N := 0, station := 0x3FF#12, cycleComplete := false, fault := none })
      events := [] }

/-- An operation emits at most one event, and only RX emits one (R260, R251). -/
def Obligations.AtMostOneEvent : Prop :=
  ∀ (i : Instr) (s t : State), exec i s = .next t →
    t.events.length ≤ 1 ∧ (t.events ≠ [] → ∃ b ts, i = .rx b ts)

/-- A dispatch is emitted exactly when an RX advances the cycle, once, and never otherwise (R226, R229: nothing a consumer
does enters the step). -/
def Obligations.DispatchExactlyOnAdvance : Prop :=
  ∀ (i : Instr) (s t : State), exec i s = .next t → isConfigure i = false →
    ((t.events.filter isDispatch).length = 1 ↔
      s.phase = .responsePending ∧ (t.phase = .sendPending ∨ t.phase = .cycleDone)) ∧
    (t.events.filter isDispatch).length ≤ 1

/-- TX_PEEK, DECODE, CKSUM, ENCODE and STATUS write no state and may be repeated with the same result (R57); so too the
two frame rows (log 6). -/
def Obligations.ReadOnlyOperationsRepeat : Prop :=
  ∀ (i : Instr) (s t : State),
    (i = .txPeek ∨ i = .status ∨ (∃ b, i = .decode b) ∨ (∃ b, i = .cksum b) ∨ (∃ d n c, i = .encode d n c) ∨
      (∃ d n c, i = .reqFrame d n c) ∨ (∃ f, i = .rspFrame f)) →
    exec i s = .next t →
    t = { s with result := t.result, events := [] } ∧ exec i t = .next t

/-! ### Faults (spec/60_exceptions.md) -/

/-- The codes 0x8 to 0xF are reserved, whatever the operands (R81): IllegalOp is recorded in `fault` if no fault is set,
and nothing else changes (but the run's record, R258; that it gains IllegalOp also while a fault is set is the model's
reading, log 10, DEDUCED). -/
def Obligations.ReservedCodeRaisesIllegalOp : Prop :=
  (∀ p : PortWord, 8 ≤ p.op.toNat → decode (.port p) = .ok (.reserved p.op)) ∧
  ∀ (op : BitVec 4) (s : State),
    (s.fault = none → exec (.reserved op) s = .next { s with
      fault := some .illegalOp, faultRecord := s.faultRecord ++ [.illegalOp]
      result := some (.fault .illegalOp), events := [] }) ∧
    (∀ k, s.fault = some k → exec (.reserved op) s = .next { s with
      faultRecord := s.faultRecord ++ [.illegalOp], result := some (.fault .illegalOp), events := [] })

/-- While `fault` is set (R231): TX_PEEK, TX_COMMIT and RX are refused and change nothing; STATUS, CKSUM, ENCODE, DECODE
and CONFIGURE answer as they do without the fault; a reserved code faults and keeps the earlier fault. -/
def Obligations.RefusedWhileFaulted : Prop :=
  ∀ (s : State) (k : FaultKind), s.fault = some k →
    (∀ i, (i = .txPeek ∨ (∃ n, i = .txCommit n) ∨ ∃ b ts, i = .rx b ts) →
      exec i s = .next { s with result := some (.refused k), events := [] }) ∧
    (∀ i, ((∃ st l, i = .configure st l) ∨ (∃ b, i = .cksum b) ∨ (∃ d n c, i = .encode d n c) ∨ ∃ b, i = .decode b) →
      ∀ t, exec i { s with fault := none } = .next t →
        ∃ u, exec i s = .next u ∧ u.result = t.result ∧ u.events = t.events ∧ SameSession t u) ∧
    (∃ u, exec .status s = .next u ∧ u.result = some (.status s.statusRecord) ∧ SameSession s u) ∧
    (∀ op, ∃ u, exec (.reserved op) s = .next u ∧ u.result = some (.fault .illegalOp) ∧ u.fault = some k ∧
      SameSession s u)

/-- Faults are precise (R257): the operation that faults leaves the session as it was, the first fault stays in `fault`,
and the run's record gains the kind, also while a fault is set (the model's reading of R258, log 10). -/
def Obligations.FaultsArePrecise : Prop :=
  ∀ (i : Instr) (s t : State) (k : FaultKind), exec i s = .next t → t.result = some (.fault k) →
    SameSession s t ∧ t.fault = some (s.fault.getD k) ∧ t.faultRecord = s.faultRecord ++ [k] ∧ t.events = []

/-- Only a successful CONFIGURE clears `fault`; the run's record of faults keeps every fault raised, and nothing shortens
it (R258). That the record gains every fault answered, also while a fault is set, is the model's reading (log 10,
DEDUCED). -/
def Obligations.OnlyConfigureClearsFault : Prop :=
  ∀ (i : Instr) (s t : State), exec i s = .next t →
    s.faultRecord <+: t.faultRecord ∧
      (∀ k, t.result = some (.fault k) → t.faultRecord = s.faultRecord ++ [k]) ∧
      ∀ k, s.fault = some k → t.fault = some k ∨ (t.fault = none ∧ isConfigure i = true ∧ t.result = some .ok)

/-- A host that keeps its contract raises no fault (spec/70_reset_and_hazards.md, honest write counts): from a state with
`SessionInv`, an operation within the contract leaves the record of faults as it was and sets none. -/
def Obligations.ContractKeptRaisesNoFault : Prop :=
  ∀ (i : Instr) (s : State), SessionInv s → HostKeepsContract s i →
    ∃ t, exec i s = .next t ∧ t.faultRecord = s.faultRecord ∧ (s.fault = none → t.fault = none)

/-! ### Reset, invariants and runs -/

/-- Power-on reset is the state `CONFIGURE 0x3FF, []` gives (R280): station 0x3FF, empty tables, IDLE, index 0,
`cycleComplete` false, no fault; and that CONFIGURE gives this session from every state. -/
def Obligations.ResetIsEmptyConfigure : Prop :=
  AfterConfigure 0x3FF [] State.reset State.reset ∧
    exec (.configure 0x3FF []) State.reset = .next { State.reset with result := some .ok, events := [] } ∧
    ∀ s : State, ∃ t, exec (.configure 0x3FF []) s = .next t ∧ t.statusRecord = State.reset.statusRecord ∧
      t.pollList = State.reset.pollList ∧ t.reqBuf = State.reset.reqBuf ∧ t.registry = State.reset.registry

/-- The numeric codes of R82. -/
def Obligations.ResultCodes : Prop :=
  [Phase.idle, .sendPending, .responsePending, .cycleDone].map phaseCode = [0, 1, 2, 3] ∧
    [Signal.idle, .wantWrite, .stop].map signalCode = [0, 1, 2] ∧
    [DecodeError.truncatedFrame, .malformedStart, .checksumMismatch, .malformedField, .addressMismatch,
      .lengthMismatch, .unknownCommandKey, .unexpectedResponse].map decodeErrorCode = [1, 2, 3, 4, 5, 6, 7, 8] ∧
    (∀ i j, [ConfigError.stationOutOfRange, .deviceOutOfRange i, .commandOutOfRange j, .tooManyEntries].map
      configErrorCode = [1, 2, 3, 4]) ∧
    [FaultKind.illegalOp, .commitCountInvalid, .commitWithoutBuffer].map faultCode = [1, 2, 3]

/-- The state after power-on reset meets the invariants of R36. -/
def Obligations.ResetMeetsInv : Prop :=
  SessionInv State.reset

/-- Every operation, and so every step, keeps the invariants of R36, from every state that meets them. -/
def Obligations.StepKeepsInv : Prop :=
  (∀ (i : Instr) (s t : State), SessionInv s → exec i s = .next t → SessionInv t) ∧
    ∀ s t : State, SessionInv s → step s = .next t → SessionInv t

/-- From every state that meets the invariants, every operation answers a next state: the model's own faults are out of
reach (R78, R224; log 8), and a step is refused only for a word that spells no instruction (the model's choice, log 11). -/
def Obligations.InvNeverStops : Prop :=
  ∀ s : State, SessionInv s →
    (∀ i : Instr, ∃ t, exec i s = .next t) ∧
      ((∃ t, step s = .next t) ∨
        ∃ w rest why, s.port = w :: rest ∧ decode w = .error why ∧ step s = .refused (.undecodable why))

/-- Round-robin completion (R232): with N ≥ 1 distinct keys, CONFIGURE and then k ≤ N rounds of `TX_COMMIT 20` and a
valid response for the outstanding entry leave the index at k mod N, the phase SEND_PENDING before the N-th round and
CYCLE_DONE after it and not before (RESPONSE_PENDING between a commit and its RX); the dispatches name entries 0, 1, …
in order. Both attributions. -/
def Obligations.RoundRobinCompletion : Prop :=
  ∀ (s : State) (station : Nat) (list : List EntryArg) (responses : List (Buffer × Ts)),
    ConfigInRange s.params.nMax station list → 0 < list.length →
    ((list.map entryOf).map CommandEntry.key).Nodup → responses.length = list.length →
    (∀ (k : Nat) (b : Buffer) (ts : Ts) (e : EntryArg), responses[k]? = some (b, ts) → list[k]? = some e →
      ∃ r, decodeResponse b (BitVec.ofNat 12 station) (buildRegistry (list.map entryOf)) (list.map entryOf) =
          some (.ok r) ∧ ResponseKey.mk r.sourceAddress r.commandCode = (entryOf e).key) →
    ∀ k, k ≤ list.length →
      ∃ t, runTrace (.configure station list :: pollRounds (responses.take k)) s =
          some ((cycleDispatches list responses).take k, t) ∧
        t.currentIndex = k % list.length ∧
        (k < list.length → t.phase = .sendPending ∧
          ∃ u, exec (.txCommit 20) t = .next u ∧ u.phase = .responsePending) ∧
        (k = list.length → t.phase = .cycleDone ∧ t.cycleComplete = true)

/-- Stall on error (R233, R284): in RESPONSE_PENDING, whatever operations the host issues, as long as it issues no
CONFIGURE and every buffer of an RX fails to advance, the phase and the index stay, and nothing is dispatched. -/
def Obligations.StallOnError : Prop :=
  ∀ (ops : List Instr) (s : State), SessionInv s → s.phase = .responsePending →
    (∀ i ∈ ops, isConfigure i = false) → (∀ b ts, Instr.rx b ts ∈ ops → FailsToAdvance s b) →
    ∃ es t, runTrace ops s = some (es, t) ∧ t.phase = .responsePending ∧ t.currentIndex = s.currentIndex ∧
      es.filter isDispatch = []

/-- With an empty poll list the session stays in IDLE under every sequence of operations without a CONFIGURE: TX_PEEK has
nothing to offer, no response is dispatched and RESPONSE_PENDING is never reached (R185). -/
def Obligations.EmptyPollListStaysIdle : Prop :=
  (∀ (s : State) (station : Nat), station < 0x1000 → ∃ t, exec (.configure station []) s = .next t ∧
      t.N = 0 ∧ t.reqBuf = [] ∧ t.registry = [] ∧ t.phase = .idle) ∧
    ∀ (ops : List Instr) (s : State), SessionInv s → s.N = 0 → (∀ i ∈ ops, isConfigure i = false) →
      ∃ es t, runTrace ops s = some (es, t) ∧ t.phase = .idle ∧ es.filter isDispatch = [] ∧
        (t.fault = none → exec .txPeek t = .next { t with result := some (.offer none), events := [] })

/-- META and TS are opaque (R8, D14, D15): renaming every metadata token and every timestamp of the state and the
operation renames those of the outcome and changes nothing else. The types are open; that their values are tokens is the
model's choice (log 2). -/
def Obligations.OpaqueTokensOnlyPassThrough : Prop :=
  ∀ (f : Meta → Meta) (g : Ts → Ts) (s : State),
    (∀ i : Instr, exec (renameInstr f g i) (s.rename f g) = renameAnswer f g (exec i s)) ∧
      step (s.rename f g) = renameAnswer f g (step s)
end

