-- ==== Sys2Proof/Laws/HexText.lean ====
section
/-! SUPPORT. Hex text, the checksum and the sub-buffers: lengths, and the one digit. -/

namespace Sys2Proof.Machine

@[simp] theorem hexN_length (n v : Nat) : (hexN n v).length = n := by
  induction n generalizing v with
  | zero => rfl
  | succ n ih => simp [hexN, ih]

@[simp] theorem checksum_length (b : Buffer) : (checksum b).length = 2 := hexN_length 2 _

@[simp] theorem requestHeader_length (dest stn cmd : Nat) : (requestHeader dest stn cmd).length = 15 := by
  simp [requestHeader, rsvd5]

@[simp] theorem encodeRequest_length (dest stn cmd : Nat) : (encodeRequest dest stn cmd).length = 20 := by
  simp [encodeRequest, term3]

/-- One digit reads back as its value. -/
theorem unhexDigit_hexDigit : ∀ v, v < 16 → unhexDigit (hexDigit v) = some v := by
  decide

theorem unhexFrom_append (acc : Nat) (f g : Buffer) :
    unhexFrom acc (f ++ g) = (unhexFrom acc f).bind fun v => unhexFrom v g := by
  induction f generalizing acc with
  | nil => rfl
  | cons c f ih =>
    simp only [List.cons_append, unhexFrom]
    cases unhexDigit c with
    | none => rfl
    | some d => exact ih _

theorem xorAll_append (a b : Buffer) : xorAll (a ++ b) = xorAll a ^^^ xorAll b := by
  have h : ∀ (b : Buffer) (x : Byte), b.foldl (fun x y => x ^^^ y) x = x ^^^ xorAll b := by
    intro b
    induction b with
    | nil => simp [xorAll]
    | cons y b ih =>
      intro x
      simp only [xorAll, List.foldl_cons]
      rw [ih, ih (0#8 ^^^ y)]
      simp [BitVec.xor_assoc]
  rw [xorAll, List.foldl_append, h]
  rfl

end Sys2Proof.Machine
end

