-- ==== Sys2Proof/Laws/State.lean ====
section
/-! SUPPORT. What each named update of the state does to each of its fields: no later proof unfolds a record update. -/

namespace Sys2Proof.Machine

variable (s : State)

@[simp] theorem State.finish_station (r : Result) (es : List Event) : (s.finish r es).station = s.station := rfl
@[simp] theorem State.finish_N (r : Result) (es : List Event) : (s.finish r es).N = s.N := rfl
@[simp] theorem State.finish_pollList (r : Result) (es : List Event) : (s.finish r es).pollList = s.pollList := rfl
@[simp] theorem State.finish_reqBuf (r : Result) (es : List Event) : (s.finish r es).reqBuf = s.reqBuf := rfl
@[simp] theorem State.finish_registry (r : Result) (es : List Event) : (s.finish r es).registry = s.registry := rfl
@[simp] theorem State.finish_phase (r : Result) (es : List Event) : (s.finish r es).phase = s.phase := rfl
@[simp] theorem State.finish_currentIndex (r : Result) (es : List Event) :
    (s.finish r es).currentIndex = s.currentIndex := rfl
@[simp] theorem State.finish_cycleComplete (r : Result) (es : List Event) :
    (s.finish r es).cycleComplete = s.cycleComplete := rfl
@[simp] theorem State.finish_fault (r : Result) (es : List Event) : (s.finish r es).fault = s.fault := rfl
@[simp] theorem State.finish_faultRecord (r : Result) (es : List Event) :
    (s.finish r es).faultRecord = s.faultRecord := rfl
@[simp] theorem State.finish_result (r : Result) (es : List Event) : (s.finish r es).result = some r := rfl
@[simp] theorem State.finish_events (r : Result) (es : List Event) : (s.finish r es).events = es := rfl
@[simp] theorem State.finish_port (r : Result) (es : List Event) : (s.finish r es).port = s.port := rfl
@[simp] theorem State.finish_params (r : Result) (es : List Event) : (s.finish r es).params = s.params := rfl

@[simp] theorem State.respond_station (r : Result) : (s.respond r).station = s.station := rfl
@[simp] theorem State.respond_N (r : Result) : (s.respond r).N = s.N := rfl
@[simp] theorem State.respond_pollList (r : Result) : (s.respond r).pollList = s.pollList := rfl
@[simp] theorem State.respond_reqBuf (r : Result) : (s.respond r).reqBuf = s.reqBuf := rfl
@[simp] theorem State.respond_registry (r : Result) : (s.respond r).registry = s.registry := rfl
@[simp] theorem State.respond_phase (r : Result) : (s.respond r).phase = s.phase := rfl
@[simp] theorem State.respond_currentIndex (r : Result) : (s.respond r).currentIndex = s.currentIndex := rfl
@[simp] theorem State.respond_cycleComplete (r : Result) : (s.respond r).cycleComplete = s.cycleComplete := rfl
@[simp] theorem State.respond_fault (r : Result) : (s.respond r).fault = s.fault := rfl
@[simp] theorem State.respond_faultRecord (r : Result) : (s.respond r).faultRecord = s.faultRecord := rfl
@[simp] theorem State.respond_result (r : Result) : (s.respond r).result = some r := rfl
@[simp] theorem State.respond_events (r : Result) : (s.respond r).events = [] := rfl
@[simp] theorem State.respond_port (r : Result) : (s.respond r).port = s.port := rfl
@[simp] theorem State.respond_params (r : Result) : (s.respond r).params = s.params := rfl

@[simp] theorem State.recordFault_station (k : FaultKind) : (s.recordFault k).station = s.station := rfl
@[simp] theorem State.recordFault_N (k : FaultKind) : (s.recordFault k).N = s.N := rfl
@[simp] theorem State.recordFault_pollList (k : FaultKind) : (s.recordFault k).pollList = s.pollList := rfl
@[simp] theorem State.recordFault_reqBuf (k : FaultKind) : (s.recordFault k).reqBuf = s.reqBuf := rfl
@[simp] theorem State.recordFault_registry (k : FaultKind) : (s.recordFault k).registry = s.registry := rfl
@[simp] theorem State.recordFault_phase (k : FaultKind) : (s.recordFault k).phase = s.phase := rfl
@[simp] theorem State.recordFault_currentIndex (k : FaultKind) : (s.recordFault k).currentIndex = s.currentIndex := rfl
@[simp] theorem State.recordFault_cycleComplete (k : FaultKind) :
    (s.recordFault k).cycleComplete = s.cycleComplete := rfl
@[simp] theorem State.recordFault_fault (k : FaultKind) : (s.recordFault k).fault = s.fault.or (some k) := rfl
@[simp] theorem State.recordFault_faultRecord (k : FaultKind) :
    (s.recordFault k).faultRecord = s.faultRecord ++ [k] := rfl
@[simp] theorem State.recordFault_result (k : FaultKind) : (s.recordFault k).result = s.result := rfl
@[simp] theorem State.recordFault_events (k : FaultKind) : (s.recordFault k).events = s.events := rfl
@[simp] theorem State.recordFault_port (k : FaultKind) : (s.recordFault k).port = s.port := rfl
@[simp] theorem State.recordFault_params (k : FaultKind) : (s.recordFault k).params = s.params := rfl

@[simp] theorem State.enterCycleDone_station : (s.enterCycleDone).station = s.station := rfl
@[simp] theorem State.enterCycleDone_N : (s.enterCycleDone).N = s.N := rfl
@[simp] theorem State.enterCycleDone_pollList : (s.enterCycleDone).pollList = s.pollList := rfl
@[simp] theorem State.enterCycleDone_reqBuf : (s.enterCycleDone).reqBuf = s.reqBuf := rfl
@[simp] theorem State.enterCycleDone_registry : (s.enterCycleDone).registry = s.registry := rfl
@[simp] theorem State.enterCycleDone_phase : (s.enterCycleDone).phase = .cycleDone := rfl
@[simp] theorem State.enterCycleDone_currentIndex : (s.enterCycleDone).currentIndex = s.currentIndex := rfl
@[simp] theorem State.enterCycleDone_cycleComplete : (s.enterCycleDone).cycleComplete = true := rfl
@[simp] theorem State.enterCycleDone_fault : (s.enterCycleDone).fault = s.fault := rfl
@[simp] theorem State.enterCycleDone_faultRecord : (s.enterCycleDone).faultRecord = s.faultRecord := rfl
@[simp] theorem State.enterCycleDone_result : (s.enterCycleDone).result = s.result := rfl
@[simp] theorem State.enterCycleDone_events : (s.enterCycleDone).events = s.events := rfl
@[simp] theorem State.enterCycleDone_port : (s.enterCycleDone).port = s.port := rfl
@[simp] theorem State.enterCycleDone_params : (s.enterCycleDone).params = s.params := rfl

@[simp] theorem State.configured_station (st : Nat) (l : List EntryArg) :
    (s.configured st l).station = BitVec.ofNat 12 st := rfl
@[simp] theorem State.configured_N (st : Nat) (l : List EntryArg) : (s.configured st l).N = l.length := rfl
@[simp] theorem State.configured_pollList (st : Nat) (l : List EntryArg) :
    (s.configured st l).pollList = l.map entryOf := rfl
@[simp] theorem State.configured_reqBuf (st : Nat) (l : List EntryArg) :
    (s.configured st l).reqBuf = l.map fun e => encodeRequest e.deviceAddress st e.commandCode := rfl
@[simp] theorem State.configured_registry (st : Nat) (l : List EntryArg) :
    (s.configured st l).registry = buildRegistry (l.map entryOf) := rfl
@[simp] theorem State.configured_phase (st : Nat) (l : List EntryArg) :
    (s.configured st l).phase = if 0 < l.length then .sendPending else .idle := rfl
@[simp] theorem State.configured_currentIndex (st : Nat) (l : List EntryArg) :
    (s.configured st l).currentIndex = 0 := rfl
@[simp] theorem State.configured_cycleComplete (st : Nat) (l : List EntryArg) :
    (s.configured st l).cycleComplete = false := rfl
@[simp] theorem State.configured_fault (st : Nat) (l : List EntryArg) : (s.configured st l).fault = none := rfl
@[simp] theorem State.configured_faultRecord (st : Nat) (l : List EntryArg) :
    (s.configured st l).faultRecord = s.faultRecord := rfl
@[simp] theorem State.configured_result (st : Nat) (l : List EntryArg) : (s.configured st l).result = s.result := rfl
@[simp] theorem State.configured_events (st : Nat) (l : List EntryArg) : (s.configured st l).events = s.events := rfl
@[simp] theorem State.configured_port (st : Nat) (l : List EntryArg) : (s.configured st l).port = s.port := rfl
@[simp] theorem State.configured_params (st : Nat) (l : List EntryArg) : (s.configured st l).params = s.params := rfl

@[simp] theorem State.withFetchWord_station (nbits w : Nat) : (s.withFetchWord nbits w).station = s.station := rfl
@[simp] theorem State.withFetchWord_N (nbits w : Nat) : (s.withFetchWord nbits w).N = s.N := rfl
@[simp] theorem State.withFetchWord_pollList (nbits w : Nat) : (s.withFetchWord nbits w).pollList = s.pollList := rfl
@[simp] theorem State.withFetchWord_reqBuf (nbits w : Nat) : (s.withFetchWord nbits w).reqBuf = s.reqBuf := rfl
@[simp] theorem State.withFetchWord_registry (nbits w : Nat) : (s.withFetchWord nbits w).registry = s.registry := rfl
@[simp] theorem State.withFetchWord_phase (nbits w : Nat) : (s.withFetchWord nbits w).phase = s.phase := rfl
@[simp] theorem State.withFetchWord_currentIndex (nbits w : Nat) : (s.withFetchWord nbits w).currentIndex = s.currentIndex := rfl
@[simp] theorem State.withFetchWord_cycleComplete (nbits w : Nat) : (s.withFetchWord nbits w).cycleComplete = s.cycleComplete := rfl
@[simp] theorem State.withFetchWord_fault (nbits w : Nat) : (s.withFetchWord nbits w).fault = s.fault := rfl
@[simp] theorem State.withFetchWord_faultRecord (nbits w : Nat) : (s.withFetchWord nbits w).faultRecord = s.faultRecord := rfl
@[simp] theorem State.withFetchWord_result (nbits w : Nat) : (s.withFetchWord nbits w).result = s.result := rfl
@[simp] theorem State.withFetchWord_events (nbits w : Nat) : (s.withFetchWord nbits w).events = s.events := rfl
@[simp] theorem State.withFetchWord_port (nbits w : Nat) :
    (s.withFetchWord nbits w).port = wordOfTable nbits w :: s.port := rfl
@[simp] theorem State.withFetchWord_params (nbits w : Nat) : (s.withFetchWord nbits w).params = s.params := rfl

end Sys2Proof.Machine
end

