-- ==== Sys2Proof/Laws/Ops.lean ====
section
/-! SUPPORT. For each shared operation, once, everything it can answer. The provers cite these and do not unfold the
operations. -/

namespace Sys2Proof.Machine

theorem unlessFaulted_of_none {s : State} {body : Answer} (h : s.fault = none) : unlessFaulted s body = body := by
  simp [unlessFaulted, h]

theorem unlessFaulted_of_some {s : State} {body : Answer} {k : FaultKind} (h : s.fault = some k) :
    unlessFaulted s body = .next (s.respond (.refused k)) := by
  simp [unlessFaulted, h]

theorem unlessFaulted_next {s t : State} {body : Answer} (h : unlessFaulted s body = .next t) :
    (∃ k, s.fault = some k ∧ t = s.respond (.refused k)) ∨ (s.fault = none ∧ body = .next t) := by
  cases hf : s.fault with
  | some k =>
    rw [unlessFaulted_of_some hf] at h
    exact .inl ⟨k, rfl, (Host.Outcome.next.inj h).symm⟩
  | none =>
    rw [unlessFaulted_of_none hf] at h
    exact .inr ⟨rfl, h⟩

theorem raiseFault_eq (k : FaultKind) (s : State) :
    raiseFault k s = .next ((s.recordFault k).respond (.fault k)) := rfl

theorem fetch_nil {s : State} (h : s.port = []) : fetch s = none := by
  simp [fetch, h]

theorem fetch_cons {s : State} {w : HostWord} {rest : List HostWord} (h : s.port = w :: rest) :
    fetch s = some (w, { s with port := rest }) := by
  simp [fetch, h]

theorem decodeOnPort_of_some {b : Buffer} {s : State} {r : DecodeResult}
    (h : decodeResponse b s.station s.registry s.pollList = some r) :
    decodeOnPort b s = .next (s.respond (.decoded r)) := by
  simp [decodeOnPort, h]

theorem execConfigure_of_rejected {st : Nat} {l : List EntryArg} {s : State} {reason : ConfigError}
    (h : checkConfig s.params.nMax st l = some reason) :
    execConfigure st l s = .next (s.respond (.configError reason)) := by
  simp [execConfigure, h]

theorem execConfigure_of_accepted {st : Nat} {l : List EntryArg} {s : State}
    (h : checkConfig s.params.nMax st l = none) :
    execConfigure st l s = .next ((s.configured st l).respond .ok) := by
  simp [execConfigure, h]

/-- The decoder's answer on the port: the result, or the model's fault where the registry points outside the list. -/
theorem decodeOnPort_next {b : Buffer} {s t : State} (h : decodeOnPort b s = .next t) :
    ∃ r, decodeResponse b s.station s.registry s.pollList = some r ∧ t = s.respond (.decoded r) := by
  unfold decodeOnPort at h
  split at h
  · next r hr => exact ⟨r, hr, (Host.Outcome.next.inj h).symm⟩
  · cases h

/-- CONFIGURE is rejected without a write, or replaces the session. -/
theorem execConfigure_next {st : Nat} {l : List EntryArg} {s t : State} (h : execConfigure st l s = .next t) :
    (∃ reason, checkConfig s.params.nMax st l = some reason ∧ t = s.respond (.configError reason)) ∨
      (checkConfig s.params.nMax st l = none ∧ t = (s.configured st l).respond .ok) := by
  unfold execConfigure at h
  split at h
  · next reason hr => exact .inl ⟨reason, hr, (Host.Outcome.next.inj h).symm⟩
  · next hn => exact .inr ⟨hn, (Host.Outcome.next.inj h).symm⟩

/-- TX_PEEK is refused, offers nothing, or offers the request of `currentIndex`. -/
theorem execTxPeek_next {s t : State} (h : execTxPeek s = .next t) :
    (∃ k, s.fault = some k ∧ t = s.respond (.refused k)) ∨
      (s.fault = none ∧ (s.N = 0 ∨ s.phase = .cycleDone) ∧ t = s.respond (.offer none)) ∨
      (s.fault = none ∧ ¬(s.N = 0 ∨ s.phase = .cycleDone) ∧
        ∃ b, s.reqBuf[s.currentIndex]? = some b ∧ t = s.respond (.offer (some b))) := by
  rcases unlessFaulted_next h with h | ⟨hf, h⟩
  · exact .inl h
  · split at h
    · next hc => exact .inr (.inl ⟨hf, hc, (Host.Outcome.next.inj h).symm⟩)
    · next hc =>
      split at h
      · next b hb => exact .inr (.inr ⟨hf, hc, b, hb, (Host.Outcome.next.inj h).symm⟩)
      · cases h

/-- A count above 0 for an offered buffer: the send transition, a resend, or a wrong count. -/
theorem commitCount_next {n : Nat} {s t : State} (h : commitCount n s = .next t) :
    ∃ b, s.reqBuf[s.currentIndex]? = some b ∧
      ((n = b.length ∧ s.phase = .sendPending ∧ t = { s with phase := .responsePending }.respond .ok) ∨
        (n = b.length ∧ s.phase ≠ .sendPending ∧ t = s.respond .ok) ∨
        (n ≠ b.length ∧ t = (s.recordFault .commitCountInvalid).respond (.fault .commitCountInvalid))) := by
  unfold commitCount at h
  split at h
  · cases h
  · next b hb =>
    refine ⟨b, hb, ?_⟩
    split at h
    · next hn =>
      split at h
      · next hp => exact .inl ⟨hn, hp, (Host.Outcome.next.inj h).symm⟩
      · next hp => exact .inr (.inl ⟨hn, hp, (Host.Outcome.next.inj h).symm⟩)
    · next hn => exact .inr (.inr ⟨hn, (Host.Outcome.next.inj h).symm⟩)

/-- TX_COMMIT is refused, accepts a count of 0, counts an offered buffer, or faults with none offered. -/
theorem execTxCommit_next {n : Nat} {s t : State} (h : execTxCommit n s = .next t) :
    (∃ k, s.fault = some k ∧ t = s.respond (.refused k)) ∨
      (s.fault = none ∧ n = 0 ∧ t = s.respond .ok) ∨
      (s.fault = none ∧ n ≠ 0 ∧ (s.phase = .sendPending ∨ s.phase = .responsePending) ∧ commitCount n s = .next t) ∨
      (s.fault = none ∧ n ≠ 0 ∧ (s.phase = .idle ∨ s.phase = .cycleDone) ∧
        t = (s.recordFault .commitWithoutBuffer).respond (.fault .commitWithoutBuffer)) := by
  rcases unlessFaulted_next h with h | ⟨hf, h⟩
  · exact .inl h
  · split at h
    · next hn => exact .inr (.inl ⟨hf, hn, (Host.Outcome.next.inj h).symm⟩)
    · next hn =>
      split at h
      · next hp => exact .inr (.inr (.inl ⟨hf, hn, .inl hp, h⟩))
      · next hp => exact .inr (.inr (.inl ⟨hf, hn, .inr hp, h⟩))
      · next hp => exact .inr (.inr (.inr ⟨hf, hn, .inl hp, (Host.Outcome.next.inj h).symm⟩))
      · next hp => exact .inr (.inr (.inr ⟨hf, hn, .inr hp, (Host.Outcome.next.inj h).symm⟩))

/-- The advance: to the next entry, or to the end of the cycle. -/
theorem dispatchAndAdvance_next {e : CommandEntry} {p : Buffer} {ts : Ts} {s t : State}
    (h : dispatchAndAdvance e p ts s = .next t) :
    s.N ≠ 0 ∧
      (((s.currentIndex + 1) % s.N = 0 ∧ t = ({ s with currentIndex := 0 }.enterCycleDone).finish (.signal .stop)
          [.dispatched e p ts s.currentIndex]) ∨
        ((s.currentIndex + 1) % s.N ≠ 0 ∧
          t = { s with currentIndex := (s.currentIndex + 1) % s.N, phase := .sendPending }.finish (.signal .wantWrite)
            [.dispatched e p ts s.currentIndex])) := by
  unfold dispatchAndAdvance at h
  split at h
  · cases h
  · next hN =>
    refine ⟨hN, ?_⟩
    split at h
    · next h0 => exact .inl ⟨h0, (Host.Outcome.next.inj h).symm⟩
    · next h0 => exact .inr ⟨h0, (Host.Outcome.next.inj h).symm⟩

/-- The entry a decoded response is dispatched to, or its rejection under Strict. -/
theorem attributeResponse_next {r : ResponseRecord} {ts : Ts} {s t : State} (h : attributeResponse r ts s = .next t) :
    (s.params.attribution = .lenient ∧ dispatchAndAdvance r.matchedCommand r.payload ts s = .next t) ∨
      (s.params.attribution = .strict ∧ ∃ e, s.pollList[s.currentIndex]? = some e ∧
        ((ResponseKey.mk r.sourceAddress r.commandCode ≠ e.key ∧
            t = s.finish (.signal .idle) [.rejected .unexpectedResponse]) ∨
          (ResponseKey.mk r.sourceAddress r.commandCode = e.key ∧ dispatchAndAdvance e r.payload ts s = .next t))) := by
  unfold attributeResponse at h
  split at h
  · next ha => exact .inl ⟨ha, h⟩
  · next ha =>
    refine .inr ⟨ha, ?_⟩
    split at h
    · cases h
    · next e he =>
      refine ⟨e, he, ?_⟩
      split at h
      · next hk => exact .inl ⟨hk, (Host.Outcome.next.inj h).symm⟩
      · next hk => exact .inr ⟨not_ne_iff.mp hk, h⟩

/-- RX is refused, ignored, rejected, or dispatched to one entry with the advance. -/
theorem execRx_next {b : Buffer} {ts : Ts} {s t : State} (h : execRx b ts s = .next t) :
    (∃ k, s.fault = some k ∧ t = s.respond (.refused k)) ∨
      (s.fault = none ∧ (s.phase = .idle ∨ s.phase = .sendPending) ∧
        t = s.finish (.signal .idle) [.ignored s.phase]) ∨
      (s.fault = none ∧ s.phase = .cycleDone ∧ t = s.finish (.signal .stop) [.ignored s.phase]) ∨
      (s.fault = none ∧ s.phase = .responsePending ∧ FailsToAdvance s b ∧
        ∃ k, t = s.finish (.signal .idle) [.rejected k]) ∨
      (s.fault = none ∧ s.phase = .responsePending ∧
        ∃ r e, decodeResponse b s.station s.registry s.pollList = some (.ok r) ∧
          ((s.params.attribution = .lenient ∧ e = r.matchedCommand) ∨
            (s.params.attribution = .strict ∧ s.pollList[s.currentIndex]? = some e ∧
              ResponseKey.mk r.sourceAddress r.commandCode = e.key)) ∧
          dispatchAndAdvance e r.payload ts s = .next t) := by
  rcases unlessFaulted_next h with h | ⟨hf, h⟩
  · exact .inl h
  · split at h
    · next hp => exact .inr (.inl ⟨hf, .inl hp, (Host.Outcome.next.inj h).symm⟩)
    · next hp => exact .inr (.inl ⟨hf, .inr hp, (Host.Outcome.next.inj h).symm⟩)
    · next hp => exact .inr (.inr (.inl ⟨hf, hp, (Host.Outcome.next.inj h).symm⟩))
    · next hp =>
      refine .inr (.inr (.inr ?_))
      unfold receiveResponse at h
      split at h
      · cases h
      · next k hd => exact .inl ⟨hf, hp, .inl ⟨k, hd⟩, k, (Host.Outcome.next.inj h).symm⟩
      · next r hd =>
        rcases attributeResponse_next h with ⟨ha, h⟩ | ⟨ha, e, he, ⟨hk, h⟩ | ⟨hk, h⟩⟩
        · exact .inr ⟨hf, hp, r, _, hd, .inl ⟨ha, rfl⟩, h⟩
        · exact .inl ⟨hf, hp, .inr ⟨ha, r, e, hd, he, hk⟩, _, h⟩
        · exact .inr ⟨hf, hp, r, e, hd, .inr ⟨ha, he, hk⟩, h⟩

end Sys2Proof.Machine
end

