-- ==== Sys2Proof/Laws/PerInstr.lean ====
section
/-! SUPPORT. Statements about every instruction as syntax, one lemma per constructor of `Instr`. -/

/-- The word of an instruction is in its row's format, and a port operation's word carries its row's operation code
(spec/opcode_table.json, spec/30_encoding.md R80). -/
def Sys2Proof.Laws.WordFormat.Statement (i : Sys2Proof.Instr) : Prop :=
  match i, Sys2Proof.encode i with
  | .configure _ _, .port p => p.op = 0x0#4
  | .txPeek, .port p => p.op = 0x1#4
  | .txCommit _, .port p => p.op = 0x2#4
  | .rx _ _, .port p => p.op = 0x3#4
  | .cksum _, .port p => p.op = 0x4#4
  | .encode _ _ _, .port p => p.op = 0x5#4
  | .decode _, .port p => p.op = 0x6#4
  | .status, .port p => p.op = 0x7#4
  | .reserved op, .port p => p.op = op
  | .reqFrame d s c, .req20 b => b = Sys2Proof.Machine.encodeRequest d.toNat s.toNat c.toNat
  | .rspFrame f, .rspv b => b = Sys2Proof.Machine.rspBytes f
  | _, _ => False

namespace Sys2Proof.Laws.WordFormat

theorem configure (station : Nat) (list : List EntryArg) : Statement (.configure station list) := rfl
theorem txPeek : Statement .txPeek := rfl
theorem txCommit (n : Nat) : Statement (.txCommit n) := rfl
theorem rx (bytes : Buffer) (ts : Ts) : Statement (.rx bytes ts) := rfl
theorem cksum (bytes : Buffer) : Statement (.cksum bytes) := rfl
theorem encode (dest stn cmd : Nat) : Statement (.encode dest stn cmd) := rfl
theorem decode (bytes : Buffer) : Statement (.decode bytes) := rfl
theorem status : Statement .status := rfl
theorem reserved (op : BitVec 4) : Statement (.reserved op) := rfl
theorem reqFrame (dest stn cmd : Addr) : Statement (.reqFrame dest stn cmd) := rfl
theorem rspFrame (fields : RspFields) : Statement (.rspFrame fields) := rfl

end Sys2Proof.Laws.WordFormat
end

