-- ==== Sys2Proof/Laws/Registry.lean ====
section
/-! SUPPORT. The registry keeps its canonical form under every operation, and reads back what was written. -/

namespace Sys2Proof.Machine

theorem ResponseKey.rank_inj {a b : ResponseKey} (h : a.rank = b.rank) : a = b := by
  obtain ⟨d, c⟩ := a
  obtain ⟨d', c'⟩ := b
  simp only [ResponseKey.rank] at h
  have := d.isLt; have := c.isLt; have := d'.isLt; have := c'.isLt
  have hd : d.toNat = d'.toNat := by omega
  have hc : c.toNat = c'.toNat := by omega
  rw [BitVec.eq_of_toNat_eq hd, BitVec.eq_of_toNat_eq hc]

/-- Read after write: the key just bound gives its index, every other key what it gave before. -/
theorem registryLookup_insert (k k' : ResponseKey) (i : Nat) (m : Registry) :
    registryLookup k' (registryInsert k i m) = if k' = k then some i else registryLookup k' m := by
  induction m with
  | nil => simp [registryInsert, registryLookup]
  | cons p m ih =>
    obtain ⟨q, j⟩ := p
    unfold registryInsert
    split
    · next hq => subst hq; simp only [registryLookup]; split <;> rfl
    · next hq =>
      split
      · rfl
      · simp only [registryLookup, ih]
        by_cases h1 : k' = q
        · by_cases h2 : k' = k
          · exact absurd (h2.symm.trans h1) hq
          · simp [h1, Ne.symm hq]
        · simp [h1]

theorem Registry.wf_cons_iff (p : ResponseKey × Nat) (m : Registry) :
    Registry.wf (p :: m) = true ↔ (∀ q ∈ m.head?, p.1.rank < q.1.rank) ∧ Registry.wf m = true := by
  obtain ⟨k, i⟩ := p
  cases m with
  | nil => simp [Registry.wf]
  | cons q m => obtain ⟨k', j⟩ := q; simp [Registry.wf]

theorem head?_registryInsert (k : ResponseKey) (i : Nat) (m : Registry) :
    ∀ q ∈ (registryInsert k i m).head?, q.1 = k ∨ q ∈ m.head? := by
  cases m with
  | nil => simp [registryInsert]
  | cons p m =>
    obtain ⟨k', j⟩ := p
    unfold registryInsert
    split
    · simp
    · split <;> simp

theorem registryInsert_wf (k : ResponseKey) (i : Nat) {m : Registry} (h : m.wf = true) :
    Registry.wf (registryInsert k i m) = true := by
  induction m with
  | nil => rfl
  | cons p m ih =>
    obtain ⟨k', j⟩ := p
    obtain ⟨hhead, hrest⟩ := (Registry.wf_cons_iff _ _).mp h
    unfold registryInsert
    split
    · next hk => subst hk; exact (Registry.wf_cons_iff _ _).mpr ⟨hhead, hrest⟩
    · next hk =>
      split
      · next hlt => exact (Registry.wf_cons_iff _ _).mpr ⟨by simpa using hlt, h⟩
      · next hle =>
        refine (Registry.wf_cons_iff _ _).mpr ⟨fun q hq => ?_, ih hrest⟩
        rcases head?_registryInsert k i m q hq with hq | hq
        · have : k.rank ≠ k'.rank := fun he => hk (ResponseKey.rank_inj he)
          simp only [hq]; omega
        · exact hhead q hq

theorem bindFrom_wf (entries : List CommandEntry) (i : Nat) {m : Registry} (h : m.wf = true) :
    Registry.wf (bindFrom m i entries) = true := by
  induction entries generalizing m i with
  | nil => exact h
  | cons e rest ih => exact ih (i + 1) (registryInsert_wf e.key i h)

/-- The registry that CONFIGURE builds is in canonical form. -/
theorem buildRegistry_wf (entries : List CommandEntry) : Registry.wf (buildRegistry entries) = true :=
  bindFrom_wf entries 0 rfl

end Sys2Proof.Machine
end

