-- ==== Sys2Proof/Tests/Slice0.lean ====
section
/-! SUPPORT. The model's own tests. Expected results are those of spec/95_test_vectors.md (V, TC, TE, TD, TK, TT, TS, TR),
worked out there from the rules; words are written out from spec/30_encoding.md. The `witness_` theorems show, for each
statement of Certificates/Slice0/Obligations.lean with hypotheses, a state and operands that meet them. -/

namespace Sys2Proof.Tests

open Sys2Proof Sys2Proof.Machine

/-! ### Helpers -/

/-- The entries E0 and E1 of spec/95_test_vectors.md, as operands of CONFIGURE. META is open, so their metadata are the one
value known; the tests of RX are for all metadata and timestamps. -/
def a0 : EntryArg := ⟨0x001, 0x006, .base⟩
def a1 : EntryArg := ⟨0x002, 0x010, .base⟩
def E0 : CommandEntry := ⟨0x001#12, 0x006#12, .base⟩
def E1 : CommandEntry := ⟨0x002#12, 0x010#12, .base⟩

/-- Power-on reset of a block with N_MAX = 2, as the TK rows take it. -/
def fresh : State := { State.reset with params := ⟨2, .lenient⟩ }

/-- The standard session S2, and S2 after `TX_COMMIT 20`. -/
def S2 : State := fresh.configured 0x3FF [a0, a1]
def sent : State := { S2 with phase := .responsePending }
def sentStrict : State := { sent with params := ⟨2, .strict⟩ }

/-- `CONFIGURE 0x3FF, [E0]`, and the same after `TX_COMMIT 20`. -/
def one : State := fresh.configured 0x3FF [a0]
def oneSent : State := { one with phase := .responsePending }

/-- TT-6's end. -/
def faulted : State := { S2 with fault := some .commitCountInvalid, faultRecord := [.commitCountInvalid] }

/-- The responses RA and RB, and further buffers of the TD rows. -/
def RA : Buffer := ascii "@3FF00100600001AB46*\n"
def RB : Buffer := ascii "@3FF00201000001C331*\n"

/-- What a host sees of an answer: the result, the events and the read-out of the state after it. -/
def seen (a : Answer) : Option (Option Result × List Event × StatusRecord) :=
  match a with
  | .next t => some (t.result, t.events, t.statusRecord)
  | .fault _ => none
  | .refused _ => none

/-- The answer of the decoder in the session S2. -/
def decodeS2 (b : Buffer) : Option DecodeResult := decodeResponse b S2.station S2.registry S2.pollList

/-! ### WellFormed: an ill-formed term for each check -/

def rsp : RspFields :=
  { sof := 0x40#8, dest := ascii "3FF", src := ascii "001", cmd := ascii "006", rsvd3 := ascii "000"
    size := ascii "01", payload := ascii "AB", crc := ascii "46", term2 := ascii "*\n" }

theorem test_wf_rsp : (Instr.rspFrame rsp).wf = true := by decide
theorem test_wf_reserved : (Instr.reserved 0x8#4).wf = true := by decide
theorem test_illformed_reserved : (Instr.reserved 0x7#4).wf = false := by decide
theorem test_illformed_dest : (Instr.rspFrame { rsp with dest := ascii "3F" }).wf = false := by decide
theorem test_illformed_src : (Instr.rspFrame { rsp with src := ascii "0001" }).wf = false := by decide
theorem test_illformed_cmd : (Instr.rspFrame { rsp with cmd := [] }).wf = false := by decide
theorem test_illformed_rsvd3 : (Instr.rspFrame { rsp with rsvd3 := ascii "00" }).wf = false := by decide
theorem test_illformed_size : (Instr.rspFrame { rsp with size := ascii "001" }).wf = false := by decide
theorem test_illformed_crc : (Instr.rspFrame { rsp with crc := ascii "4" }).wf = false := by decide
theorem test_illformed_term2 : (Instr.rspFrame { rsp with term2 := ascii "*\r\n" }).wf = false := by decide

/-! ### Decoding: one word per constructor, written from R71, R73 and R80 -/

/-- `CONFIGURE 0x3FF, [(0x001, 0x006, m0)]` -/
theorem test_word_configure (m0 : Meta) :
    decode (.port ⟨0b0000#4, 0x3FF, 0, 0, [], .base, [⟨0x001, 0x006, m0⟩]⟩) =
      .ok (.configure 0x3FF [⟨0x001, 0x006, m0⟩]) := rfl
theorem test_word_txPeek : decode (.port ⟨0b0001#4, 0, 0, 0, [], .base, []⟩) = .ok .txPeek := rfl
theorem test_word_txCommit : decode (.port ⟨0b0010#4, 20, 0, 0, [], .base, []⟩) = .ok (.txCommit 20) := rfl
theorem test_word_rx (t0 : Ts) : decode (.port ⟨0b0011#4, 0, 0, 0, RA, t0, []⟩) = .ok (.rx RA t0) := rfl
theorem test_word_cksum : decode (.port ⟨0b0100#4, 0, 0, 0, ascii "AB", .base, []⟩) = .ok (.cksum (ascii "AB")) := rfl
theorem test_word_encode : decode (.port ⟨0b0101#4, 1, 0x3FF, 6, [], .base, []⟩) = .ok (.encode 1 0x3FF 6) := rfl
theorem test_word_decode : decode (.port ⟨0b0110#4, 0, 0, 0, RA, .base, []⟩) = .ok (.decode RA) := rfl
theorem test_word_status : decode (.port ⟨0b0111#4, 0, 0, 0, [], .base, []⟩) = .ok .status := rfl
theorem test_word_reserved : decode (.port ⟨0b1111#4, 0, 0, 0, [], .base, []⟩) = .ok (.reserved 0b1111#4) := rfl
/-- V1's frame, byte by byte. -/
theorem test_word_reqFrame :
    decode (.req20 [0x40#8, 0x30#8, 0x30#8, 0x31#8, 0x33#8, 0x46#8, 0x46#8, 0x30#8, 0x30#8, 0x36#8, 0x30#8, 0x30#8,
      0x30#8, 0x30#8, 0x30#8, 0x34#8, 0x34#8, 0x2A#8, 0x0D#8, 0x0A#8]) =
      .ok (.reqFrame 0x001#12 0x3FF#12 0x006#12) := rfl
/-- V2's frame, byte by byte. -/
theorem test_word_rspFrame :
    decode (.rspv [0x40#8, 0x33#8, 0x46#8, 0x46#8, 0x30#8, 0x30#8, 0x31#8, 0x30#8, 0x30#8, 0x36#8, 0x30#8, 0x30#8,
      0x30#8, 0x30#8, 0x31#8, 0x41#8, 0x42#8, 0x34#8, 0x36#8, 0x2A#8, 0x0A#8]) = .ok (.rspFrame rsp) := rfl
/-- Lowercase digits, and a wrong CRC, are no request frame the block sends. -/
theorem test_reject_req20 : decode (.req20 (ascii "@0013ff0060000044*\r\n")) = .error .notRequestFrame := rfl
theorem test_reject_rspv : decode (.rspv (ascii "@3FF00100600001AB4")) = .error .shortResponseFrame := rfl

/-! ### One step of each instruction -/

/-- TK-6, TK-7 and TK-10. -/
theorem test_configure_devices_first :
    seen (exec (.configure 0x3FF [⟨0x1000, 0x001, .base⟩, ⟨0x001, 0x1000, .base⟩]) S2) =
        some (some (.configError (.deviceOutOfRange 0)), [], ⟨.sendPending, 0, 2, 0x3FF#12, false, none⟩) ∧
      seen (exec (.configure 0x3FF [⟨0x001, 0x1000, .base⟩, ⟨0x1000, 0x001, .base⟩]) S2) =
        some (some (.configError (.deviceOutOfRange 1)), [], ⟨.sendPending, 0, 2, 0x3FF#12, false, none⟩) := by decide
theorem test_configure_later_entry_wins :
    (fresh.configured 0x3FF [a0, a0]).registry = [(⟨0x001#12, 0x006#12⟩, 1)] := by decide
/-- TT-1 and TT-9. -/
theorem test_txPeek_offers :
    (seen (exec .txPeek S2)).map (·.1) = some (some (.offer (some (ascii "@0013FF0060000044*\r\n")))) := by decide
theorem test_txPeek_reset : (seen (exec .txPeek fresh)).map (·.1) = some (some (.offer none)) := by decide
/-- TT-3 and TT-6. -/
theorem test_txCommit_sends :
    seen (exec (.txCommit 20) S2) = some (some .ok, [], ⟨.responsePending, 0, 2, 0x3FF#12, false, none⟩) := by decide
theorem test_txCommit_partial :
    seen (exec (.txCommit 7) S2) = some (some (.fault .commitCountInvalid), [],
      ⟨.sendPending, 0, 2, 0x3FF#12, false, some .commitCountInvalid⟩) := by decide
/-- S2 after `TX_COMMIT 20`, with any metadata and either attribution. -/
def sentWith (m0 m1 : Meta) (a : Attribution) : State :=
  { sent with pollList := [⟨0x001#12, 0x006#12, m0⟩, ⟨0x002#12, 0x010#12, m1⟩], params := ⟨2, a⟩ }
/-- The decode of RB does not look at the metadata it passes on. -/
theorem decode_RB (m0 m1 : Meta) :
    decodeResponse RB 0x3FF#12 [(⟨0x001#12, 0x006#12⟩, 0), (⟨0x002#12, 0x010#12⟩, 1)]
      [⟨0x001#12, 0x006#12, m0⟩, ⟨0x002#12, 0x010#12, m1⟩] =
      some (.ok ⟨0x3FF#12, 0x002#12, 0x010#12, ascii "C3", 1, 1, ⟨0x002#12, 0x010#12, m1⟩⟩) := rfl
theorem sentWith_rx_RB (m0 m1 : Meta) (a : Attribution) (t0 : Ts) :
    exec (.rx RB t0) (sentWith m0 m1 a) = attributeResponse
      ⟨0x3FF#12, 0x002#12, 0x010#12, ascii "C3", 1, 1, ⟨0x002#12, 0x010#12, m1⟩⟩ t0 (sentWith m0 m1 a) := by
  have hx : ∀ b, exec (.rx b t0) (sentWith m0 m1 a) = receiveResponse b t0 (sentWith m0 m1 a) := fun _ => rfl
  have hr : (sentWith m0 m1 a).registry = [(⟨0x001#12, 0x006#12⟩, 0), (⟨0x002#12, 0x010#12⟩, 1)] := by
    simp only [sentWith]; decide
  rw [hx, receiveResponse, hr,
    show (sentWith m0 m1 a).station = 0x3FF#12 from rfl,
    show (sentWith m0 m1 a).pollList = [⟨0x001#12, 0x006#12, m0⟩, ⟨0x002#12, 0x010#12, m1⟩] from rfl, decode_RB]
/-- TS-10 and TS-11, for all metadata and timestamps: a response for the other entry, Lenient and Strict. -/
theorem test_rx_lenient (m0 m1 : Meta) (t0 : Ts) :
    seen (exec (.rx RB t0) (sentWith m0 m1 .lenient)) =
      some (some (.signal .wantWrite), [.dispatched ⟨0x002#12, 0x010#12, m1⟩ (ascii "C3") t0 0],
        ⟨.sendPending, 1, 2, 0x3FF#12, false, none⟩) := by
  rw [sentWith_rx_RB]; rfl
theorem test_rx_strict (m0 m1 : Meta) (t0 : Ts) :
    seen (exec (.rx RB t0) (sentWith m0 m1 .strict)) =
      some (some (.signal .idle), [.rejected .unexpectedResponse],
        ⟨.responsePending, 0, 2, 0x3FF#12, false, none⟩) := by
  rw [sentWith_rx_RB]; rfl
/-- TC-9, and TR-6 while faulted. -/
theorem test_cksum_high_bit : checksum [0x7F#8, 0x80#8] = ascii "FF" := by decide
theorem test_cksum_faulted :
    (seen (exec (.cksum (ascii "AB")) faulted)).map (·.1) = some (some (.buffer (ascii "03"))) := by decide
/-- TE-5 and TE-4. -/
theorem test_encode_letters :
    (seen (exec (.encode 0xABC 0x123 0x0F0) fresh)).map (·.1) =
      some (some (.buffer (ascii "@ABC1230F00000046*\r\n"))) := by decide
theorem test_encode_masks :
    (seen (exec (.encode 0x1001 0x3FF 0x2006) fresh)).map (·.1) =
      some (some (.buffer (ascii "@0013FF0060000044*\r\n"))) := by decide
/-- TD-7 and TD-10. -/
theorem test_decode_lowercase :
    (seen (exec (.decode (ascii "@3ff00100600001AB46*\n")) S2)).map (·.1) = some (some (.decoded (.ok
      ⟨0x3FF#12, 0x001#12, 0x006#12, ascii "AB", 1, 0, E0⟩))) := by decide
theorem test_decode_any_payload_byte :
    decodeS2 (ascii "@3FF00100600001" ++ [0xC1#8, 0x80#8] ++ ascii "04*\n") =
      some (.ok ⟨0x3FF#12, 0x001#12, 0x006#12, [0xC1#8, 0x80#8], 1, 0, E0⟩) := by decide
/-- TR-5. -/
theorem test_status_faulted :
    (seen (exec .status faulted)).map (·.1) =
      some (some (.status ⟨.sendPending, 0, 2, 0x3FF#12, false, some .commitCountInvalid⟩)) := by decide
/-- TR-3 and TR-4. -/
theorem test_reserved_sets_fault :
    seen (exec (.reserved 0x8#4) S2) =
      some (some (.fault .illegalOp), [], ⟨.sendPending, 0, 2, 0x3FF#12, false, some .illegalOp⟩) := by decide
theorem test_reserved_keeps_first :
    seen (exec (.reserved 0xF#4) faulted) =
      some (some (.fault .illegalOp), [], ⟨.sendPending, 0, 2, 0x3FF#12, false, some .commitCountInvalid⟩) := by decide
/-- TE-11, and V2 in the session S2. -/
theorem test_reqFrame :
    (seen (exec (.reqFrame 0x3FF#12 0x001#12 0x006#12) fresh)).map (·.1) =
      some (some (.buffer (ascii "@3FF0010060000044*\r\n"))) := by decide
theorem test_rspFrame :
    (seen (exec (.rspFrame rsp) S2)).map (·.1) = some (some (.decoded (.ok
      ⟨0x3FF#12, 0x001#12, 0x006#12, ascii "AB", 1, 0, E0⟩))) := by decide
/-- From reset with a word at the port: OP 0x1 offers nothing. -/
theorem test_step_from_reset :
    (seen (step (State.reset.withFetchWord 8 0x1))).map (·.1) = some (some (.offer none)) := by decide

/-! ### Witnesses: the encodings and the step -/

theorem witness_DecodeInvertsEncode : (Instr.reserved 0x8#4).wf = true ∧ (Instr.rspFrame rsp).wf = true := by decide
theorem witness_DecodedInstrIsWellFormed :
    decode (.port (PortWord.ofOp 0x9#4)) = .ok (.reserved 0x9#4) ∧ decode (.rspv RA) = .ok (.rspFrame rsp) ∧
      decode (.req20 (ascii "@0013FF0060000044*\r\n")) = .ok (.reqFrame 0x001#12 0x3FF#12 0x006#12) := ⟨rfl, rfl, rfl⟩
theorem witness_StepRunsDecodedInstr :
    (∃ w rest i, ({ S2 with port := [.port (PortWord.ofOp 0x7#4)] } : State).port = w :: rest ∧ decode w = .ok i) ∧
      ∃ w rest why, ({ S2 with port := [.rspv []] } : State).port = w :: rest ∧ decode w = .error why :=
  ⟨⟨_, _, _, rfl, rfl⟩, _, _, _, rfl, rfl⟩
theorem witness_StepHoldsStateWhenIdlePort : S2.port = [] := rfl
theorem witness_HexTextReadsBack :
    (0 < 3 ∧ (2 : Nat) < 3) ∧ unhex (ascii "3F*") = none ∧
      (ascii "ABCDEF")[5]? = some 0x46#8 ∧ (ascii "abcdef")[5]? = some 0x66#8 := by decide
theorem witness_ChecksumSensitivity : 0 < 8 ∧ 7 < 8 ∧ (ascii "AB").Perm (ascii "BA") :=
  ⟨by decide, by decide, List.Perm.swap _ _ _⟩
theorem witness_RequestFrameLayout :
    ascii "@ABC1230F00000046*\r\n" = encodeRequest 0x1ABC 0x123 0x0F0 := by decide

/-! ### Witnesses: the decoder, one for each check -/

/-- The premises that the checks before the fields of step 4 pass. -/
def passesChecksum (b : Buffer) : Bool :=
  decide (19 ≤ b.length ∧ b[0]? = some 0x40#8 ∧
    hexN 2 (xorAll (slice b 0 (b.length - 4))).toNat = slice b (b.length - 4) (b.length - 2))

/-- TD-13, TD-15, TD-17. -/
theorem witness_DecodeReportsFirstFailingCheck_short :
    (ascii "@3FF00100600001AB4").length < 19 ∧ decodeS2 (ascii "@3FF00100600001AB4") = some (.err .truncatedFrame) := by
  decide
theorem witness_DecodeReportsFirstFailingCheck_start :
    19 ≤ (ascii "X3FF001006000005C*\n").length ∧ (ascii "X3FF001006000005C*\n")[0]? ≠ some 0x40#8 ∧
      decodeS2 (ascii "X3FF001006000005C*\n") = some (.err .malformedStart) := by decide
theorem witness_DecodeReportsFirstFailingCheck_checksum :
    19 ≤ (ascii "@3FF001006XYZ01AB2d*\n").length ∧ (ascii "@3FF001006XYZ01AB2d*\n")[0]? = some 0x40#8 ∧
      passesChecksum (ascii "@3FF001006XYZ01AB2d*\n") = false ∧
      decodeS2 (ascii "@3FF001006XYZ01AB2d*\n") = some (.err .checksumMismatch) := by decide
/-- TD-24, TD-29, TD-25, TD-35, TD-38. -/
theorem witness_DecodeReportsFirstFailingCheck_field :
    passesChecksum (ascii "@3FE0G000600001AB33*\n") = true ∧
      unhex (slice (ascii "@3FE0G000600001AB33*\n") 4 7) = none ∧
      decodeS2 (ascii "@3FE0G000600001AB33*\n") = some (.err .malformedField) := by decide
theorem witness_DecodeReportsFirstFailingCheck_address :
    passesChecksum (ascii "@3FE0010060000ZAB2E*\n") = true ∧
      unhex (slice (ascii "@3FE0010060000ZAB2E*\n") 1 4) = some 0x3FE ∧ 0x3FE ≠ S2.station.toNat ∧
      decodeS2 (ascii "@3FE0010060000ZAB2E*\n") = some (.err .addressMismatch) := by decide
theorem witness_DecodeReportsFirstFailingCheck_size :
    passesChecksum (ascii "@3FF0010060000ZAB2D*\n") = true ∧
      unhex (slice (ascii "@3FF0010060000ZAB2D*\n") 1 4) = some S2.station.toNat ∧
      unhex (slice (ascii "@3FF0010060000ZAB2D*\n") 13 15) = none ∧
      decodeS2 (ascii "@3FF0010060000ZAB2D*\n") = some (.err .malformedField) := by decide
theorem witness_DecodeReportsFirstFailingCheck_length :
    passesChecksum (ascii "@3FF00100600000X1C*\n") = true ∧
      unhex (slice (ascii "@3FF00100600000X1C*\n") 13 15) = some 0 ∧ (ascii "@3FF00100600000X1C*\n").length - 19 ≠ 2 * 0 ∧
      decodeS2 (ascii "@3FF00100600000X1C*\n") = some (.err .lengthMismatch) := by decide
theorem witness_DecodeReportsFirstFailingCheck_key :
    passesChecksum (ascii "@3FF00a00600001AB16*\n") = true ∧ (ascii "@3FF00a00600001AB16*\n").length - 19 = 2 * 1 ∧
      registryLookup ⟨0x00A#12, 0x006#12⟩ S2.registry = none ∧
      decodeS2 (ascii "@3FF00a00600001AB16*\n") = some (.err .unknownCommandKey) := by decide
theorem witness_DecodeReportsFirstFailingCheck_ok :
    passesChecksum RA = true ∧ RA.length - 19 = 2 * 1 ∧ unhex (slice RA 13 15) = some 1 ∧
      registryLookup ⟨0x001#12, 0x006#12⟩ S2.registry = some 0 ∧ S2.pollList[0]? = some E0 := by decide
/-- TD-3 and TD-6: the smallest and the largest valid frame. -/
theorem witness_ValidResponseShape_smallest :
    decodeS2 (ascii "@3FF0020100000040*\n") = some (.ok ⟨0x3FF#12, 0x002#12, 0x010#12, [], 0, 1, E1⟩) := by decide
theorem witness_ValidResponseShape_largest :
    decodeS2 (ascii "@3FF002010000FF" ++ List.replicate 510 0x5A#8 ++ ascii "40*\n") =
      some (.ok ⟨0x3FF#12, 0x002#12, 0x010#12, List.replicate 510 0x5A#8, 255, 1, E1⟩) := by decide +kernel
theorem witness_StitchedFrameDecodes :
    (List.replicate 510 0x5A#8 : Buffer).length = 2 * 255 ∧ (ascii "000").length = 3 ∧ (ascii "*\n").length = 2 ∧
      registryLookup ⟨0x002#12, 0x010#12⟩ S2.registry = some 1 ∧ S2.pollList[1]? = some E1 ∧
      stitchResponse 0x3FF#12 0x001#12 0x006#12 (ascii "000") 1 (ascii "AB") (ascii "*\n") = RA :=
  ⟨List.length_replicate, by decide⟩
theorem witness_TerminatorAndReservedIgnored :
    (ascii "??").length = 2 ∧ (ascii "@3FF001006").length = 10 ∧ (ascii "000").length = 3 ∧
      xorAll (ascii "000") = xorAll (ascii "110") ∧ 6 ≤ (ascii "01AB46*\n").length := by decide
theorem witness_registry_points_inside :
    ∀ k i, registryLookup k S2.registry = some i → i < S2.pollList.length := by
  intro k i h
  have hr : S2.registry = [(⟨0x001#12, 0x006#12⟩, 0), (⟨0x002#12, 0x010#12⟩, 1)] := by decide
  have hl : S2.pollList.length = 2 := by decide
  rw [hr] at h
  simp only [registryLookup] at h
  split at h
  · cases h; omega
  · split at h
    · cases h; omega
    · cases h

/-! ### Witnesses: CONFIGURE -/

theorem witness_ConfigureStartsSession :
    ConfigInRange S2.params.nMax 0xFFF [⟨0xFFF, 0xFFF, .base⟩, a1] ∧ ConfigInRange S2.params.nMax 0 [] := by
  constructor <;> simp [ConfigInRange, S2, fresh, a1]
theorem witness_ConfigureRejectsFirstError :
    seen (exec (.configure 0x1000 [a0, a1, a0]) S2) =
        some (some (.configError .stationOutOfRange), [], S2.statusRecord) ∧
      seen (exec (.configure 0xFFF [a0, a1, a0]) S2) = some (some (.configError .tooManyEntries), [], S2.statusRecord) ∧
      seen (exec (.configure 0xFFF [a0, ⟨0x1000, 0x1000, .base⟩]) S2) =
        some (some (.configError (.deviceOutOfRange 1)), [], S2.statusRecord) ∧
      seen (exec (.configure 0xFFF [⟨0xFFF, 0x1000, .base⟩]) S2) =
        some (some (.configError (.commandOutOfRange 0)), [], S2.statusRecord) := by decide
theorem witness_RegistryBindsLargestIndex :
    registryLookup E0.key (buildRegistry [E0, E1, E0]) = some 2 ∧ registryLookup E1.key (buildRegistry [E0]) = none := by
  decide
theorem witness_TablesImmutableBetweenConfigures :
    ∃ t, isConfigure (.txCommit 20) = false ∧ exec (.txCommit 20) S2 = .next t := ⟨_, rfl, rfl⟩

/-! ### Witnesses: the sequencer -/

theorem witness_TxPeekOffersRequest :
    faulted.fault = some .commitCountInvalid ∧ (fresh.fault = none ∧ fresh.N = 0) ∧
      (S2.fault = none ∧ S2.N ≠ 0 ∧ S2.phase ≠ .cycleDone ∧
        S2.reqBuf[S2.currentIndex]? = some (ascii "@0013FF0060000044*\r\n")) := by decide
theorem witness_TxPeekOffersRequest_done : ({ S2 with phase := .cycleDone } : State).fault = none := rfl
theorem witness_TxCommitSendsRequest :
    S2.fault = none ∧ S2.phase = .sendPending ∧ S2.reqBuf[S2.currentIndex]? = some (encodeRequest 1 0x3FF 6) ∧
      (encodeRequest 1 0x3FF 6).length = 20 := by decide
theorem witness_TxCommitBackpressureAndResend :
    sent.fault = none ∧ sent.phase = .responsePending ∧
      sent.reqBuf[sent.currentIndex]? = some (encodeRequest 1 0x3FF 6) := by decide
theorem witness_TxCommitWrongCountFaults :
    (1 ≠ 0 ∧ 1 ≠ 20) ∧ (21 ≠ 0 ∧ 21 ≠ 20) ∧ fresh.phase = .idle ∧ fresh.fault = none ∧
      seen (exec (.txCommit 20) fresh) = some (some (.fault .commitWithoutBuffer), [],
        ⟨.idle, 0, 0, 0x3FF#12, false, some .commitWithoutBuffer⟩) := by decide
theorem witness_RxIgnoredOutsideResponsePending :
    fresh.phase = .idle ∧ S2.phase = .sendPending ∧ S2.fault = none ∧
      seen (exec (.rx RA .base) { S2 with phase := .cycleDone }) =
        some (some (.signal .stop), [.ignored .cycleDone], ⟨.cycleDone, 0, 2, 0x3FF#12, false, none⟩) := by decide
theorem witness_RxRejectsFailedDecode :
    sent.fault = none ∧ sent.phase = .responsePending ∧
      decodeResponse [] sent.station sent.registry sent.pollList = some (.err .truncatedFrame) := by decide
theorem witness_RxLenientDispatchesAndAdvances :
    sent.params.attribution = .lenient ∧ 0 < sent.N ∧ (sent.currentIndex + 1) % sent.N ≠ 0 ∧
      (oneSent.currentIndex + 1) % oneSent.N = 0 ∧
      decodeResponse RB sent.station sent.registry sent.pollList =
        some (.ok ⟨0x3FF#12, 0x002#12, 0x010#12, ascii "C3", 1, 1, E1⟩) ∧
      decodeResponse RA oneSent.station oneSent.registry oneSent.pollList =
        some (.ok ⟨0x3FF#12, 0x001#12, 0x006#12, ascii "AB", 1, 0, E0⟩) := by decide
theorem witness_RxStrictDemandsOutstandingKey :
    sentStrict.params.attribution = .strict ∧ sentStrict.pollList[sentStrict.currentIndex]? = some E0 ∧
      seen (exec (.rx RA .base) sentStrict) = some (some (.signal .wantWrite), [.dispatched E0 (ascii "AB") .base 0],
        ⟨.sendPending, 1, 2, 0x3FF#12, false, none⟩) ∧
      seen (exec (.rx RA .base) { oneSent with params := ⟨2, .strict⟩ }) =
        some (some (.signal .stop), [.dispatched E0 (ascii "AB") .base 0],
          ⟨.cycleDone, 0, 1, 0x3FF#12, true, none⟩) := by decide
theorem witness_RxSignalFollowsPhase : ∃ t, sent.fault = none ∧ exec (.rx RA .base) sent = .next t := ⟨_, rfl, rfl⟩

/-! ### Witnesses: a state with the invariants, in RESPONSE_PENDING, in SEND_PENDING and in IDLE -/

theorem lastIndexOf_singleton (e : CommandEntry) (k : ResponseKey) (i : Nat) :
    registryLookup k [(e.key, 0)] = some i ↔ LastIndexOf k [e] i := by
  unfold LastIndexOf
  cases i with
  | zero =>
    simp only [registryLookup]
    constructor
    · intro h
      split at h
      · next hk =>
        refine ⟨by simp [hk], fun j hj => ?_⟩
        cases j with
        | zero => exact Nat.le_refl 0
        | succ j => simp at hj
      · cases h
    · rintro ⟨h, _⟩
      simp only [List.getElem?_cons_zero, Option.map_some, Option.some.injEq] at h
      simp [h]
  | succ i => simp [registryLookup]

theorem one_inv : SessionInv one where
  idle_iff_empty := by decide
  index_below := by decide
  index_zero_when_empty := by decide
  cycleComplete_iff := by decide
  pollList_length := by decide
  reqBuf_exact := by decide
  registry_canonical := by decide
  registry_exact := lastIndexOf_singleton E0
  done_at_zero := by decide
  within_capacity := by decide
  capacity_positive := by decide
  fault_recorded := by intro k h; cases h

theorem oneSent_inv : SessionInv oneSent where
  idle_iff_empty := by decide
  index_below := by decide
  index_zero_when_empty := by decide
  cycleComplete_iff := by decide
  pollList_length := by decide
  reqBuf_exact := by decide
  registry_canonical := by decide
  registry_exact := lastIndexOf_singleton E0
  done_at_zero := by decide
  within_capacity := by decide
  capacity_positive := by decide
  fault_recorded := by intro k h; cases h

/-- An empty session at another station, with a fault set. -/
def emptyFaulted : State :=
  { fresh with station := 0x001#12, fault := some .illegalOp, faultRecord := [.illegalOp] }

theorem emptyFaulted_inv : SessionInv emptyFaulted where
  idle_iff_empty := by decide
  index_below := by decide
  index_zero_when_empty := by decide
  cycleComplete_iff := by decide
  pollList_length := by decide
  reqBuf_exact := by decide
  registry_canonical := by decide
  registry_exact := by intro k i; simp [LastIndexOf, emptyFaulted, fresh, State.reset, registryLookup]
  done_at_zero := by decide
  within_capacity := by decide
  capacity_positive := by decide
  fault_recorded := by intro k h; cases h; decide

theorem witness_PhaseTransitions :
    ∃ t, SessionInv one ∧ exec (.txCommit 20) one = .next t ∧ t.phase ≠ one.phase := ⟨_, one_inv, rfl, by decide⟩
theorem witness_PhaseTransitions_wrap :
    ∃ t, SessionInv oneSent ∧ exec (.rx RA .base) oneSent = .next t ∧ t.phase = .cycleDone := ⟨_, oneSent_inv, rfl, by decide⟩
theorem witness_IndexMovesByOne :
    ∃ t, exec (.rx RA .base) sent = .next t ∧ t.currentIndex ≠ sent.currentIndex := ⟨_, rfl, by decide⟩
theorem witness_AtMostOneEvent : ∃ t, exec (.rx RA .base) S2 = .next t ∧ t.events ≠ [] := ⟨_, rfl, by decide⟩
theorem witness_DispatchExactlyOnAdvance :
    ∃ t, exec (.rx RA .base) sent = .next t ∧ isConfigure (.rx RA .base) = false ∧
      (t.events.filter isDispatch).length = 1 := ⟨_, rfl, rfl, by decide⟩
theorem witness_ReadOnlyOperationsRepeat :
    (∃ t, exec .txPeek S2 = .next t) ∧ (∃ t, exec .status S2 = .next t) ∧ (∃ t, exec (.decode RA) S2 = .next t) ∧
      (∃ t, exec (.cksum RA) S2 = .next t) ∧ (∃ t, exec (.encode 1 2 3) S2 = .next t) ∧
      (∃ t, exec (.reqFrame 1 2 3) S2 = .next t) ∧ ∃ t, exec (.rspFrame rsp) S2 = .next t :=
  ⟨⟨_, rfl⟩, ⟨_, rfl⟩, ⟨_, rfl⟩, ⟨_, rfl⟩, ⟨_, rfl⟩, ⟨_, rfl⟩, _, rfl⟩
theorem witness_ReservedCodeRaisesIllegalOp : S2.fault = none ∧ faulted.fault = some .commitCountInvalid := by decide
theorem witness_RefusedWhileFaulted :
    ∃ t, faulted.fault = some .commitCountInvalid ∧ exec (.decode RA) { faulted with fault := none } = .next t :=
  ⟨_, rfl, rfl⟩
theorem witness_RefusedWhileFaulted_configure :
    ∃ t, exec (.configure 0x3FF [a0]) { faulted with fault := none } = .next t ∧ t.result = some .ok :=
  ⟨_, rfl, by decide⟩
theorem witness_FaultsArePrecise :
    ∃ t, exec (.reserved 0xF#4) faulted = .next t ∧ t.result = some (.fault .illegalOp) := ⟨_, rfl, rfl⟩
theorem witness_OnlyConfigureClearsFault :
    ∃ t, exec (.configure 0x3FF [a0]) faulted = .next t ∧ faulted.fault = some .commitCountInvalid ∧ t.fault = none ∧
      t.faultRecord = [.commitCountInvalid] := ⟨_, rfl, rfl, by decide, by decide⟩
theorem witness_ContractKeptRaisesNoFault :
    SessionInv one ∧ HostKeepsContract one (.txCommit 20) ∧ HostKeepsContract oneSent (.txCommit 0) :=
  ⟨one_inv, .inr ⟨rfl, .inl rfl⟩, .inl rfl⟩
theorem witness_StepKeepsInv :
    ∃ s t, SessionInv s ∧ exec (.rx RA .base) s = .next t ∧ step s = .next s := ⟨oneSent, _, oneSent_inv, rfl, rfl⟩
theorem witness_InvNeverStops : SessionInv oneSent ∧ SessionInv emptyFaulted := ⟨oneSent_inv, emptyFaulted_inv⟩
/-- All premises of RoundRobinCompletion, for `CONFIGURE 0x3FF, [E0, E1]` and the responses RA and RB. -/
theorem witness_RoundRobinCompletion :
    ConfigInRange fresh.params.nMax 0x3FF [a0, a1] ∧ 0 < [a0, a1].length ∧
      (([a0, a1].map entryOf).map CommandEntry.key).Nodup ∧ [(RA, Ts.base), (RB, .base)].length = [a0, a1].length ∧
      ∀ (k : Nat) (b : Buffer) (ts : Ts) (e : EntryArg), [(RA, Ts.base), (RB, .base)][k]? = some (b, ts) →
        [a0, a1][k]? = some e →
        ∃ r, decodeResponse b (BitVec.ofNat 12 0x3FF) (buildRegistry ([a0, a1].map entryOf)) ([a0, a1].map entryOf) =
            some (.ok r) ∧ ResponseKey.mk r.sourceAddress r.commandCode = (entryOf e).key := by
  have h0 : ∃ r, decodeResponse RA (BitVec.ofNat 12 0x3FF) (buildRegistry ([a0, a1].map entryOf))
      ([a0, a1].map entryOf) = some (.ok r) ∧ ResponseKey.mk r.sourceAddress r.commandCode = (entryOf a0).key :=
    ⟨⟨0x3FF#12, 0x001#12, 0x006#12, ascii "AB", 1, 0, E0⟩, by decide, by decide⟩
  have h1 : ∃ r, decodeResponse RB (BitVec.ofNat 12 0x3FF) (buildRegistry ([a0, a1].map entryOf))
      ([a0, a1].map entryOf) = some (.ok r) ∧ ResponseKey.mk r.sourceAddress r.commandCode = (entryOf a1).key :=
    ⟨⟨0x3FF#12, 0x002#12, 0x010#12, ascii "C3", 1, 1, E1⟩, by decide, by decide⟩
  refine ⟨by simp [ConfigInRange, fresh, a0, a1], by decide, by decide, rfl, fun k b ts e hr he => ?_⟩
  generalize RA = p at h0 hr
  generalize RB = q at h1 hr
  match k with
  | 0 =>
    simp only [List.getElem?_cons_zero, Option.some.injEq, Prod.mk.injEq] at hr he
    rw [← hr.1, ← he]; exact h0
  | 1 =>
    simp only [List.getElem?_cons_succ, List.getElem?_cons_zero, Option.some.injEq, Prod.mk.injEq] at hr he
    rw [← hr.1, ← he]; exact h1
  | k + 2 => simp at hr
/-- All premises of StallOnError, for an RX of an empty buffer between two other operations. -/
theorem witness_StallOnError :
    SessionInv oneSent ∧ oneSent.phase = .responsePending ∧
      (∀ i ∈ [Instr.txPeek, .rx [] .base, .reserved 0x8#4], isConfigure i = false) ∧
      ∀ b ts, Instr.rx b ts ∈ [Instr.txPeek, .rx [] .base, .reserved 0x8#4] → FailsToAdvance oneSent b := by
  refine ⟨oneSent_inv, rfl, by decide, fun b ts h => ?_⟩
  simp only [List.mem_cons, reduceCtorEq, Instr.rx.injEq, List.not_mem_nil, or_false, false_or] at h
  rw [h.1]
  exact .inl ⟨.truncatedFrame, by decide⟩
theorem witness_StallOnError_strict : FailsToAdvance sentStrict RB :=
  .inr ⟨rfl, ⟨0x3FF#12, 0x002#12, 0x010#12, ascii "C3", 1, 1, E1⟩, E0, by decide, by decide, by decide⟩
theorem witness_EmptyPollListStaysIdle : SessionInv emptyFaulted ∧ emptyFaulted.N = 0 := ⟨emptyFaulted_inv, rfl⟩

end Sys2Proof.Tests
end

/-! Hex fields read back, the fields of a request frame by offset, and the reserved operation codes
(spec/30_encoding.md). -/

namespace Sys2Proof.Machine

/-! ### Hex text -/

/-- A field of `n` digits depends on the low `4n` bits of the value only (R11). -/
@[simp] theorem hexN_mod (n v : Nat) : hexN n (v % 16 ^ n) = hexN n v := by
  induction n generalizing v with
  | zero => rfl
  | succ n ih =>
    have low : v % 16 ^ (n + 1) % 16 = v % 16 := Nat.mod_mod_of_dvd v (Dvd.intro_left _ rfl)
    have high : v % 16 ^ (n + 1) / 16 = v / 16 % 16 ^ n := by
      rw [Nat.pow_succ', Nat.mod_mul_right_div_self]
    simp only [hexN, low, high, ih]

theorem unhexFrom_hexN (acc n v : Nat) : unhexFrom acc (hexN n v) = some (acc * 16 ^ n + v % 16 ^ n) := by
  induction n generalizing v with
  | zero => simp [hexN, unhexFrom, Nat.mod_one]
  | succ n ih =>
    have digit : unhexDigit (hexDigit (v % 16)) = some (v % 16) :=
      unhexDigit_hexDigit _ (Nat.mod_lt _ (by decide))
    have value : (acc * 16 ^ n + v / 16 % 16 ^ n) * 16 + v % 16 = acc * 16 ^ (n + 1) + v % 16 ^ (n + 1) := by
      rw [Nat.pow_succ', Nat.mod_mul]
      ring
    simp only [hexN, unhexFrom_append, ih, unhexFrom, digit, Option.bind_some, value]

/-- `unhex` reads a field of at least one digit only through `unhexFrom`. -/
theorem unhex_of_ne_nil {f : Buffer} (h : f ≠ []) : unhex f = unhexFrom 0 f := by
  cases f with
  | nil => exact absurd rfl h
  | cons c rest => rfl

theorem unhex_hexN {n : Nat} (hn : 0 < n) (v : Nat) : unhex (hexN n v) = some (v % 16 ^ n) := by
  have nonempty : hexN n v ≠ [] := List.ne_nil_of_length_pos (by simpa using hn)
  rw [unhex_of_ne_nil nonempty, unhexFrom_hexN]
  simp

/-! ### The fields of a request frame -/

/-- A field is the sub-buffer between the bytes before it and the bytes after it (R9). -/
theorem slice_eq_of_append {f before field after : Buffer} {lo hi : Nat} (hf : f = before ++ (field ++ after))
    (hlo : before.length = lo) (hhi : field.length = hi - lo) : slice f lo hi = field := by
  rw [slice, hf, ← hlo, List.drop_left, hlo, ← hhi, List.take_left]

theorem requestHeader_eq (dest stn cmd : Nat) :
    requestHeader dest stn cmd = [sofByte] ++ hexN 3 dest ++ hexN 3 stn ++ hexN 3 cmd ++ rsvd5 := by
  have low (v : Nat) : hexN 3 (v % 0x1000) = hexN 3 v := hexN_mod 3 v
  simp only [requestHeader, low]

section Fields
variable (dest stn cmd : Nat)

theorem slice_encodeRequest_header : slice (encodeRequest dest stn cmd) 0 15 = requestHeader dest stn cmd :=
  slice_eq_of_append (before := []) (after := checksum (requestHeader dest stn cmd) ++ term3)
    (by simp [encodeRequest]) rfl (by simp)

theorem slice_encodeRequest_crc :
    slice (encodeRequest dest stn cmd) 15 17 = checksum (requestHeader dest stn cmd) :=
  slice_eq_of_append (before := requestHeader dest stn cmd) (after := term3)
    (by simp [encodeRequest]) (by simp) (by simp)

theorem slice_encodeRequest_term : slice (encodeRequest dest stn cmd) 17 20 = term3 :=
  slice_eq_of_append (before := requestHeader dest stn cmd ++ checksum (requestHeader dest stn cmd)) (after := [])
    (by simp [encodeRequest]) (by simp) rfl

/-- A field of the header stands in the frame at the same offsets. -/
theorem slice_encodeRequest_of_header {before field after : Buffer} {lo hi : Nat}
    (hf : requestHeader dest stn cmd = before ++ (field ++ after))
    (hlo : before.length = lo) (hhi : field.length = hi - lo) :
    slice (encodeRequest dest stn cmd) lo hi = field :=
  slice_eq_of_append (after := after ++ (checksum (requestHeader dest stn cmd) ++ term3))
    (by simp only [encodeRequest, hf, List.append_assoc]) hlo hhi

theorem slice_encodeRequest_sof : slice (encodeRequest dest stn cmd) 0 1 = [sofByte] :=
  slice_encodeRequest_of_header dest stn cmd (before := [])
    (after := hexN 3 dest ++ hexN 3 stn ++ hexN 3 cmd ++ rsvd5) (by simp [requestHeader_eq]) rfl rfl

theorem slice_encodeRequest_dest : slice (encodeRequest dest stn cmd) 1 4 = hexN 3 dest :=
  slice_encodeRequest_of_header dest stn cmd (before := [sofByte]) (after := hexN 3 stn ++ hexN 3 cmd ++ rsvd5)
    (by simp [requestHeader_eq]) rfl (by simp)

theorem slice_encodeRequest_station : slice (encodeRequest dest stn cmd) 4 7 = hexN 3 stn :=
  slice_encodeRequest_of_header dest stn cmd (before := [sofByte] ++ hexN 3 dest) (after := hexN 3 cmd ++ rsvd5)
    (by simp [requestHeader_eq]) (by simp) (by simp)

theorem slice_encodeRequest_cmd : slice (encodeRequest dest stn cmd) 7 10 = hexN 3 cmd :=
  slice_encodeRequest_of_header dest stn cmd (before := [sofByte] ++ hexN 3 dest ++ hexN 3 stn) (after := rsvd5)
    (by simp [requestHeader_eq]) (by simp) (by simp)

theorem slice_encodeRequest_rsvd : slice (encodeRequest dest stn cmd) 10 15 = rsvd5 :=
  slice_encodeRequest_of_header dest stn cmd (before := [sofByte] ++ hexN 3 dest ++ hexN 3 stn ++ hexN 3 cmd)
    (after := []) (by simp [requestHeader_eq]) (by simp) rfl

end Fields

/-! ### Reserved operation codes -/

/-- Every operation code with bit 3 set spells the reserved operation, whatever stands on the operand lines (R81). -/
theorem decodePort_of_reservedCode {p : PortWord} (h : reservedCode p.op) : decodePort p = .reserved p.op := by
  unfold decodePort
  split
  case h_9 => rfl
  all_goals omega

theorem exec_reserved (op : BitVec 4) (s : State) :
    exec (.reserved op) s = .next ((s.recordFault .illegalOp).respond (.fault .illegalOp)) := rfl

/-- With no fault set, the fault register and the run's record both gain the kind (R256, R258). -/
theorem State.recordFault_of_none {s : State} (k : FaultKind) (h : s.fault = none) :
    s.recordFault k = { s with fault := some k, faultRecord := s.faultRecord ++ [k] } := by
  simp [recordFault, h]

/-- A fault register that is set keeps its kind; the run's record gains the new one (R257, R258). -/
theorem State.recordFault_of_some {s : State} {earlier : FaultKind} (k : FaultKind) (h : s.fault = some earlier) :
    s.recordFault k = { s with faultRecord := s.faultRecord ++ [k] } := by
  simp [recordFault, h]

end Sys2Proof.Machine

namespace Sys2Proof

open Sys2Proof.Machine

/-- Settles O10: each field is cut out of the frame at its offsets, and a field of three digits reads back modulo
`16 ^ 3`. -/
theorem requestFrameLayout : Obligations.RequestFrameLayout := by
  rintro dest stn cmd f rfl
  have readBack (v : Nat) : unhex (hexN 3 v) = some (v % 0x1000) := unhex_hexN (by decide) v
  rw [slice_encodeRequest_dest, slice_encodeRequest_station, slice_encodeRequest_cmd, slice_encodeRequest_header]
  exact ⟨encodeRequest_length dest stn cmd, slice_encodeRequest_sof dest stn cmd, rfl, readBack dest, rfl,
    readBack stn, rfl, readBack cmd, slice_encodeRequest_rsvd dest stn cmd, slice_encodeRequest_crc dest stn cmd,
    slice_encodeRequest_term dest stn cmd⟩

/-- Settles O39: the decoder's reserved row, and the one fault entry split on whether a fault is set already. -/
theorem reservedCodeRaisesIllegalOp : Obligations.ReservedCodeRaisesIllegalOp := by
  refine ⟨fun p hp => congrArg Except.ok (decodePort_of_reservedCode hp), fun op s => ⟨fun hnone => ?_, ?_⟩⟩
  · rw [exec_reserved, State.recordFault_of_none _ hnone]
    rfl
  · intro k hk
    rw [exec_reserved, State.recordFault_of_some _ hk]
    rfl

end Sys2Proof

/-! The checksum: the XOR read byte by byte, and its two hex digits (spec/40_checksum.md). -/

namespace Sys2Proof.Machine

/-! ### The XOR of a buffer -/

@[simp] theorem xorAll_nil : xorAll [] = 0#8 := rfl

@[simp] theorem xorAll_cons (x : Byte) (b : Buffer) : xorAll (x :: b) = x ^^^ xorAll b := by
  have single : xorAll [x] = x := BitVec.zero_xor
  rw [← List.singleton_append, xorAll_append, single]

/-- Changing one byte by a mask changes the XOR by the same mask, wherever the byte stands. -/
theorem xorAll_xor_byte (p q : Buffer) (x mask : Byte) :
    xorAll (p ++ (x ^^^ mask) :: q) = xorAll (p ++ x :: q) ^^^ mask := by
  simp only [xorAll_append, xorAll_cons]
  ac_rfl

/-- The same mask on two bytes cancels in the XOR. -/
theorem xorAll_xor_two_bytes (p q r : Buffer) (x y mask : Byte) :
    xorAll (p ++ (x ^^^ mask) :: (q ++ (y ^^^ mask) :: r)) = xorAll (p ++ x :: (q ++ y :: r)) := by
  calc xorAll (p ++ (x ^^^ mask) :: (q ++ (y ^^^ mask) :: r))
      = xorAll (p ++ x :: (q ++ (y ^^^ mask) :: r)) ^^^ mask := xorAll_xor_byte p _ x mask
    _ = xorAll ((p ++ x :: q) ++ (y ^^^ mask) :: r) ^^^ mask := by simp
    _ = xorAll ((p ++ x :: q) ++ y :: r) ^^^ mask ^^^ mask := by rw [xorAll_xor_byte]
    _ = xorAll (p ++ x :: (q ++ y :: r)) := by simp

theorem xorAll_eq_of_perm {b b' : Buffer} (h : b.Perm b') : xorAll b = xorAll b' := by
  induction h with
  | nil => rfl
  | cons x _ ih => rw [xorAll_cons, xorAll_cons, ih]
  | swap x y b =>
    simp only [xorAll_cons]
    ac_rfl
  | trans _ _ ih₁ ih₂ => exact ih₁.trans ih₂

/-! ### The two digits -/

/-- Fields of `n` digits are equal exactly when their values agree modulo `16 ^ n` (R11). -/
theorem hexN_eq_iff (n v w : Nat) : hexN n v = hexN n w ↔ v % 16 ^ n = w % 16 ^ n := by
  constructor
  · intro h
    simpa [unhexFrom_hexN] using congrArg (unhexFrom 0) h
  · intro h
    rw [← hexN_mod n v, h, hexN_mod]

/-- Two digits hold the whole XOR: the checksum loses nothing of it. -/
theorem checksum_eq_iff (b b' : Buffer) : checksum b = checksum b' ↔ xorAll b = xorAll b' := by
  have fits (x : Byte) : x.toNat % 16 ^ 2 = x.toNat := Nat.mod_eq_of_lt x.isLt
  rw [checksum, checksum, hexN_eq_iff, fits, fits, BitVec.toNat_inj]

/-- Changing one byte by a mask that is not zero changes the checksum. -/
theorem checksum_xor_byte_ne (p q : Buffer) (x : Byte) {mask : Byte} (hmask : mask ≠ 0#8) :
    checksum (p ++ (x ^^^ mask) :: q) ≠ checksum (p ++ x :: q) := by
  rw [Ne, checksum_eq_iff, xorAll_xor_byte]
  intro h
  exact hmask (by simpa using h)

theorem oneBit_ne_zero : ∀ k, k < 8 → 1#8 <<< k ≠ 0#8 := by
  decide

theorem checksum_singleton (x : Byte) : checksum [x] = hexN 2 x.toNat := by
  simp [checksum]

theorem checksum_pair_self (x : Byte) : checksum [x, x] = ascii "00" := by
  have cancel : xorAll [x, x] = xorAll [] := by simp
  rw [(checksum_eq_iff _ _).mpr cancel]
  rfl

/-! ### CKSUM -/

theorem exec_cksum (b : Buffer) (s : State) :
    exec (.cksum b) s = .next (s.respond (.buffer (checksum b))) := rfl

theorem decodePort_of_cksumCode {p : PortWord} (h : p.op = 0x4#4) : decodePort p = .cksum p.bytes := by
  unfold decodePort
  rw [h]
  rfl

end Sys2Proof.Machine

namespace Sys2Proof

open Sys2Proof.Machine

/-- Settles O8: all four properties are read off the XOR, which the two digits determine and are determined by. -/
theorem checksumSensitivity : Obligations.ChecksumSensitivity := by
  refine ⟨fun b b' h => congrArg checksum h, fun p q x k hk => ⟨?_, ?_⟩, fun b b' h => ?_, fun p q r x y k _ => ?_,
    by decide, by decide⟩
  · exact xorAll_xor_byte p q x _
  · exact checksum_xor_byte_ne p q x (oneBit_ne_zero k hk)
  · exact (checksum_eq_iff b b').mpr (xorAll_eq_of_perm h)
  · exact (checksum_eq_iff _ _).mpr (xorAll_xor_two_bytes p q r x y _)

/-- Settles O7: CKSUM only responds (R100); its corner cases are those of the XOR of no, one and two equal bytes. -/
theorem cksumAnswersXorInHex : Obligations.CksumAnswersXorInHex := by
  refine ⟨fun b s => ?_, rfl, checksum_singleton, checksum_pair_self, by decide, by decide, by decide, fun p hp => ?_⟩
  · rw [exec_cksum]
    rfl
  · exact congrArg Except.ok (decodePort_of_cksumCode hp)

end Sys2Proof

/-! ENCODE: the literals of the frame, the masking of its operands, and the port word that spells it
(spec/41_encoder.md). -/

namespace Sys2Proof.Machine

/-! ### The literals of a request frame -/

theorem ascii_sof : ascii "@" = [sofByte] := rfl

theorem ascii_rsvd5 : ascii "00000" = rsvd5 := rfl

theorem ascii_term3 : ascii "*\r\n" = term3 := rfl

/-- The header as R120 writes it, with SOF and RSVD5 as text. -/
theorem requestHeader_eq_ascii (dest stn cmd : Nat) :
    requestHeader dest stn cmd =
      ascii "@" ++ hexN 3 (dest % 0x1000) ++ hexN 3 (stn % 0x1000) ++ hexN 3 (cmd % 0x1000) ++ ascii "00000" := by
  rw [ascii_sof, ascii_rsvd5, requestHeader]

/-! ### ENCODE -/

/-- Masking the operands to 12 bits first changes nothing: the frame keeps no other bit of them (R123). -/
theorem encodeRequest_mod (dest stn cmd : Nat) :
    encodeRequest (dest % 0x1000) (stn % 0x1000) (cmd % 0x1000) = encodeRequest dest stn cmd := by
  simp only [encodeRequest, requestHeader, Nat.mod_mod]

theorem exec_encode (dest stn cmd : Nat) (s : State) :
    exec (.encode dest stn cmd) s = .next (s.respond (.buffer (encodeRequest dest stn cmd))) := rfl

theorem decodePort_of_encodeCode {p : PortWord} (h : p.op = 0x5#4) :
    decodePort p = .encode p.nat1 p.nat2 p.nat3 := by
  unfold decodePort
  rw [h]
  rfl

end Sys2Proof.Machine

namespace Sys2Proof

open Sys2Proof.Machine

/-- Settles O9: ENCODE only responds, with the frame built on the 15-byte header (R120); the corner case of operands
beyond 12 bits is masking (R123). -/
theorem encodeAnswersRequestFrame : Obligations.EncodeAnswersRequestFrame := by
  refine ⟨fun dest stn cmd s => ?_, by decide, by decide, ?_, by decide, fun p hp => ?_⟩
  · refine ⟨requestHeader dest stn cmd, requestHeader_eq_ascii dest stn cmd, requestHeader_length dest stn cmd, ?_⟩
    rw [exec_encode, ascii_term3]
    rfl
  · exact (encodeRequest_mod 0x1001 0x3FF 0x2006).symm
  · exact congrArg Except.ok (decodePort_of_encodeCode hp)

end Sys2Proof

/-! The response decoder: the bound of a hex field, and one equation of `decodeResponse` for each check
(spec/42_decoder.md). -/

namespace Sys2Proof.Machine

/-! ### Hex fields are bounded by their length -/

theorem unhexDigit_lt {c : Byte} {v : Nat} (h : unhexDigit c = some v) : v < 16 := by
  simp only [unhexDigit] at h
  split_ifs at h <;> cases h <;> omega

theorem unhexFrom_lt {acc v : Nat} {f : Buffer} (h : unhexFrom acc f = some v) : v < (acc + 1) * 16 ^ f.length := by
  induction f generalizing acc with
  | nil =>
    cases h
    simp
  | cons c rest ih =>
    obtain ⟨d, hd, hrest⟩ := Option.bind_eq_some_iff.mp h
    have hdigit : acc * 16 + d + 1 ≤ (acc + 1) * 16 := by
      have := unhexDigit_lt hd
      omega
    calc v < (acc * 16 + d + 1) * 16 ^ rest.length := ih hrest
      _ ≤ (acc + 1) * 16 * 16 ^ rest.length := Nat.mul_le_mul_right _ hdigit
      _ = (acc + 1) * 16 ^ (c :: rest).length := by rw [List.length_cons, Nat.pow_succ', Nat.mul_assoc]

/-- A field of `n` hex digits is below `16 ^ n` (R11). -/
theorem unhex_lt {f : Buffer} {v : Nat} (h : unhex f = some v) : v < 16 ^ f.length := by
  cases f with
  | nil => cases h
  | cons c rest => simpa using unhexFrom_lt h

theorem slice_length (b : Buffer) (lo hi : Nat) : (slice b lo hi).length = min (hi - lo) (b.length - lo) := by
  simp [slice]

/-- DEST, SRC and CMD are three digits, so a value read there is a 12-bit value. -/
theorem unhex_slice_three_lt {b : Buffer} {lo v : Nat} (h : unhex (slice b lo (lo + 3)) = some v) : v < 0x1000 := by
  have hlen : (slice b lo (lo + 3)).length ≤ 3 := by
    rw [slice_length]
    omega
  calc v < 16 ^ (slice b lo (lo + 3)).length := unhex_lt h
    _ ≤ 16 ^ 3 := Nat.pow_le_pow_right (by decide) hlen

/-! ### Steps 1 to 3: length, start and checksum -/

/-- The buffer passes the checks of steps 1 to 3 (R142 to R144). -/
structure PassesFrameChecks (b : Buffer) : Prop where
  length : 19 ≤ b.length
  start : b[0]? = some sofByte
  crc : checksum (slice b 0 (b.length - 4)) = slice b (b.length - 4) (b.length - 2)

section Decode
variable {b : Buffer} (station : Addr) (registry : Registry) (list : List CommandEntry)

theorem decodeResponse_of_short (hlen : b.length < 19) :
    decodeResponse b station registry list = some (.err .truncatedFrame) :=
  if_pos hlen

theorem decodeResponse_of_start_ne (hlen : 19 ≤ b.length) (hstart : b[0]? ≠ some sofByte) :
    decodeResponse b station registry list = some (.err .malformedStart) := by
  rw [decodeResponse, if_neg (Nat.not_lt.mpr hlen), if_pos hstart]

theorem decodeResponse_of_checksum_ne (hlen : 19 ≤ b.length) (hstart : b[0]? = some sofByte)
    (hcrc : checksum (slice b 0 (b.length - 4)) ≠ slice b (b.length - 4) (b.length - 2)) :
    decodeResponse b station registry list = some (.err .checksumMismatch) := by
  rw [decodeResponse, if_neg (Nat.not_lt.mpr hlen), if_neg (not_not_intro hstart), if_pos hcrc]

/-! ### Steps 4 and 5: the three fields and the address -/

theorem decodeResponse_of_field_none (hb : PassesFrameChecks b)
    (hfield : unhex (slice b 1 4) = none ∨ unhex (slice b 4 7) = none ∨ unhex (slice b 7 10) = none) :
    decodeResponse b station registry list = some (.err .malformedField) := by
  rw [decodeResponse, if_neg (Nat.not_lt.mpr hb.length), if_neg (not_not_intro hb.start),
    if_neg (not_not_intro hb.crc)]
  split
  next hdst hsrc hcmd => simp [hdst, hsrc, hcmd] at hfield
  next => rfl

variable {dst src cmd : Nat}

/-- With its three fields read, the frame is for this station or for another. -/
theorem decodeResponse_of_fields (hb : PassesFrameChecks b) (hdst : unhex (slice b 1 4) = some dst)
    (hsrc : unhex (slice b 4 7) = some src) (hcmd : unhex (slice b 7 10) = some cmd) :
    decodeResponse b station registry list =
      if dst ≠ station.toNat then some (.err .addressMismatch) else matchResponse b registry list dst src cmd := by
  rw [decodeResponse, if_neg (Nat.not_lt.mpr hb.length), if_neg (not_not_intro hb.start),
    if_neg (not_not_intro hb.crc), hdst, hsrc, hcmd]

end Decode

/-! ### Steps 6 and 7, and the success -/

/-- The payload is what stands between the 15 bytes before it and the 4 after it. -/
theorem payload_length (b : Buffer) : (slice b 15 (b.length - 4)).length = b.length - 19 := by
  rw [slice_length]
  omega

section Match
variable {b : Buffer} {registry : Registry} (list : List CommandEntry) (dst : Nat) {src cmd size : Nat}

theorem matchResponse_of_size_none (hsize : unhex (slice b 13 15) = none) :
    matchResponse b registry list dst src cmd = some (.err .malformedField) := by
  rw [matchResponse, hsize]

theorem matchResponse_of_length_ne (hsize : unhex (slice b 13 15) = some size) (hlen : b.length - 19 ≠ 2 * size) :
    matchResponse b registry list dst src cmd = some (.err .lengthMismatch) := by
  rw [Nat.mul_comm, ← payload_length] at hlen
  simp only [matchResponse, hsize, if_pos hlen]

theorem matchResponse_of_unbound (hsize : unhex (slice b 13 15) = some size) (hlen : b.length - 19 = 2 * size)
    (hkey : registryLookup ⟨BitVec.ofNat 12 src, BitVec.ofNat 12 cmd⟩ registry = none) :
    matchResponse b registry list dst src cmd = some (.err .unknownCommandKey) := by
  rw [Nat.mul_comm, ← payload_length] at hlen
  simp only [matchResponse, hsize, if_neg (not_not_intro hlen), hkey]

/-- The success (R149). -/
theorem matchResponse_of_bound {list : List CommandEntry} {i : Nat} {e : CommandEntry}
    (hsize : unhex (slice b 13 15) = some size) (hlen : b.length - 19 = 2 * size)
    (hkey : registryLookup ⟨BitVec.ofNat 12 src, BitVec.ofNat 12 cmd⟩ registry = some i) (he : list[i]? = some e) :
    matchResponse b registry list dst src cmd = some (.ok {
      destinationAddress := BitVec.ofNat 12 dst, sourceAddress := BitVec.ofNat 12 src
      commandCode := BitVec.ofNat 12 cmd, payload := slice b 15 (b.length - 4)
      reportedSize := size, matchedIndex := i, matchedCommand := e }) := by
  rw [Nat.mul_comm, ← payload_length] at hlen
  simp only [matchResponse, hsize, if_neg (not_not_intro hlen), hkey, he, Option.map_some]

end Match

end Sys2Proof.Machine

namespace Sys2Proof

open Sys2Proof.Machine

/-- Settles O13: the checks are taken in the order of R141, one equation of the decoder for each; the fields are below
`16 ^ 3`, and DEST equal to the station makes the record's destination the station itself. -/
theorem decodeReportsFirstFailingCheck : Obligations.DecodeReportsFirstFailingCheck := by
  rintro b station registry list d rfl
  refine ⟨decodeResponse_of_short station registry list, fun hlen =>
    ⟨decodeResponse_of_start_ne station registry list hlen, fun hstart =>
      ⟨decodeResponse_of_checksum_ne station registry list hlen hstart, fun hcrc => ?_⟩⟩⟩
  have hb : PassesFrameChecks b := ⟨hlen, hstart, hcrc⟩
  refine ⟨decodeResponse_of_field_none station registry list hb, fun dst src cmd hdst hsrc hcmd => ?_⟩
  rw [decodeResponse_of_fields station registry list hb hdst hsrc hcmd]
  refine ⟨⟨unhex_slice_three_lt hdst, unhex_slice_three_lt hsrc, unhex_slice_three_lt hcmd⟩, fun hne => if_pos hne,
    fun hstation => ?_⟩
  have hrecord : BitVec.ofNat 12 dst = station := by
    rw [hstation, BitVec.ofNat_toNat, BitVec.setWidth_eq]
  rw [if_neg (not_not_intro hstation)]
  refine ⟨matchResponse_of_size_none list dst, fun size hsize =>
    ⟨matchResponse_of_length_ne list dst hsize, fun hpayload =>
      ⟨matchResponse_of_unbound list dst hsize hpayload, fun i e hkey he => ?_⟩⟩⟩
  rw [matchResponse_of_bound dst hsize hpayload hkey he, hrecord]

end Sys2Proof

/-! The command table: a CONFIGURE in range, the index that the registry gives a key, and the session of an empty poll
list (spec/43_command_table.md). -/

namespace Sys2Proof.Machine

/-! ### The configuration check -/

/-- The four checks of R181 all pass exactly for the operands in range. -/
theorem checkConfig_eq_none_iff (nMax station : Nat) (list : List EntryArg) :
    checkConfig nMax station list = none ↔ ConfigInRange nMax station list := by
  have scan (field : EntryArg → Nat) :
      list.findIdx? (fun e => decide (0x1000 ≤ field e)) = none ↔ ∀ e ∈ list, field e < 0x1000 := by
    simp [List.findIdx?_eq_none_iff]
  rw [ConfigInRange, forall₂_and, ← scan, ← scan, checkConfig]
  split
  next h => simp [h]
  split
  next h => simp [h]
  split
  next _ h => simp [h]
  split
  next _ h => simp [h]
  next hst hlen _ hdev _ hcmd => simp [Nat.not_le.mp hst, Nat.not_lt.mp hlen, hdev, hcmd]

theorem exec_configure_of_inRange {station : Nat} {list : List EntryArg} {s : State}
    (h : ConfigInRange s.params.nMax station list) :
    exec (.configure station list) s = .next ((s.configured station list).respond .ok) :=
  execConfigure_of_accepted ((checkConfig_eq_none_iff _ _ _).mpr h)

/-- An empty poll list fits every capacity. -/
theorem configInRange_nil {nMax station : Nat} (h : station < 0x1000) : ConfigInRange nMax station [] :=
  ⟨h, Nat.zero_le nMax, nofun⟩

/-! ### The registry's index of a key -/

theorem bindFrom_append (m : Registry) (i : Nat) (xs ys : List CommandEntry) :
    bindFrom m i (xs ++ ys) = bindFrom (bindFrom m i xs) (i + xs.length) ys := by
  induction xs generalizing m i with
  | nil => rfl
  | cons x xs ih => rw [List.cons_append, bindFrom, ih, bindFrom, List.length_cons, Nat.add_right_comm, Nat.add_assoc]

/-- The last insertion of R183 is the last entry's. -/
theorem buildRegistry_concat (entries : List CommandEntry) (e : CommandEntry) :
    buildRegistry (entries ++ [e]) = registryInsert e.key entries.length (buildRegistry entries) := by
  rw [buildRegistry, bindFrom_append, Nat.zero_add]
  rfl

theorem lastIndexOf_concat_self (entries : List CommandEntry) (e : CommandEntry) (i : Nat) :
    LastIndexOf e.key (entries ++ [e]) i ↔ i = entries.length := by
  have last : (entries ++ [e])[entries.length]?.map CommandEntry.key = some e.key := by simp
  have bound (j : Nat) (hj : (entries ++ [e])[j]?.map CommandEntry.key = some e.key) : j ≤ entries.length := by
    obtain ⟨e', he', -⟩ := Option.map_eq_some_iff.mp hj
    have := (List.getElem?_eq_some_iff.mp he').1
    simpa [Nat.lt_succ_iff] using this
  constructor
  · rintro ⟨hi, hmax⟩
    exact Nat.le_antisymm (bound i hi) (hmax _ last)
  · rintro rfl
    exact ⟨last, bound⟩

theorem lastIndexOf_concat_of_ne {k : ResponseKey} {e : CommandEntry} (h : k ≠ e.key) (entries : List CommandEntry)
    (i : Nat) : LastIndexOf k (entries ++ [e]) i ↔ LastIndexOf k entries i := by
  have same (j : Nat) : (entries ++ [e])[j]?.map CommandEntry.key = some k ↔
      entries[j]?.map CommandEntry.key = some k := by
    rw [List.getElem?_append]
    split
    next => rfl
    next hj =>
      have old : entries[j]? = none := List.getElem?_eq_none (Nat.not_lt.mp hj)
      cases j - entries.length <;> simp [old, h.symm]
  simp only [LastIndexOf, same]

/-- Each key is bound to the largest index that has it (R183): a new last entry takes over its own key and leaves every
other key's index. -/
theorem registryLookup_buildRegistry (entries : List CommandEntry) (k : ResponseKey) (i : Nat) :
    registryLookup k (buildRegistry entries) = some i ↔ LastIndexOf k entries i := by
  induction entries using List.reverseRecOn with
  | nil => simp [buildRegistry, bindFrom, registryLookup, LastIndexOf]
  | append_singleton entries e ih =>
    rw [buildRegistry_concat, registryLookup_insert]
    by_cases hk : k = e.key
    · subst hk
      rw [if_pos rfl, lastIndexOf_concat_self, Option.some.injEq, eq_comm]
    · rw [if_neg hk, lastIndexOf_concat_of_ne hk, ih]

theorem registry_eq_nil_of_lookup {m : Registry} (h : ∀ k, registryLookup k m = none) : m = [] := by
  cases m with
  | nil => rfl
  | cons p m => simpa [registryLookup] using h p.1

/-! ### A registry that points inside the poll list: the decoder always answers (R36) -/

section Inside
variable (b : Buffer) {registry : Registry} {list : List CommandEntry}

theorem matchResponse_answers (hin : ∀ k i, registryLookup k registry = some i → i < list.length)
    (dst src cmd : Nat) : ∃ r, matchResponse b registry list dst src cmd = some r := by
  cases hsize : unhex (slice b 13 15) with
  | none => exact ⟨_, matchResponse_of_size_none list dst hsize⟩
  | some size =>
    by_cases hlen : b.length - 19 = 2 * size
    · cases hkey : registryLookup ⟨BitVec.ofNat 12 src, BitVec.ofNat 12 cmd⟩ registry with
      | none => exact ⟨_, matchResponse_of_unbound list dst hsize hlen hkey⟩
      | some i => exact ⟨_, matchResponse_of_bound dst hsize hlen hkey (List.getElem?_eq_getElem (hin _ _ hkey))⟩
    · exact ⟨_, matchResponse_of_length_ne list dst hsize hlen⟩

theorem decodeResponse_answers (station : Addr)
    (hin : ∀ k i, registryLookup k registry = some i → i < list.length) :
    ∃ r, decodeResponse b station registry list = some r := by
  by_cases hlen : 19 ≤ b.length
  case neg => exact ⟨_, decodeResponse_of_short station registry list (Nat.not_le.mp hlen)⟩
  by_cases hstart : b[0]? = some sofByte
  case neg => exact ⟨_, decodeResponse_of_start_ne station registry list hlen hstart⟩
  by_cases hcrc : checksum (slice b 0 (b.length - 4)) = slice b (b.length - 4) (b.length - 2)
  case neg => exact ⟨_, decodeResponse_of_checksum_ne station registry list hlen hstart hcrc⟩
  have hb : PassesFrameChecks b := ⟨hlen, hstart, hcrc⟩
  match hdst : unhex (slice b 1 4), hsrc : unhex (slice b 4 7), hcmd : unhex (slice b 7 10) with
  | none, _, _ => exact ⟨_, decodeResponse_of_field_none station registry list hb (.inl hdst)⟩
  | _, none, _ => exact ⟨_, decodeResponse_of_field_none station registry list hb (.inr (.inl hsrc))⟩
  | _, _, none => exact ⟨_, decodeResponse_of_field_none station registry list hb (.inr (.inr hcmd))⟩
  | some dst, some src, some cmd =>
    rw [decodeResponse_of_fields station registry list hb hdst hsrc hcmd]
    split
    · exact ⟨_, rfl⟩
    · exact matchResponse_answers b hin dst src cmd

end Inside

/-! ### The session of an empty poll list (R185) -/

/-- IDLE over empty tables. -/
structure EmptySession (s : State) : Prop where
  phase : s.phase = .idle
  N : s.N = 0
  registry : s.registry = []

theorem SessionInv.emptySession {s : State} (inv : SessionInv s) (hN : s.N = 0) : EmptySession s where
  phase := inv.idle_iff_empty.mpr hN
  N := hN
  registry := by
    have hlist : s.pollList = [] := List.length_eq_zero_iff.mp (inv.pollList_length.trans hN)
    refine registry_eq_nil_of_lookup fun k => Option.eq_none_iff_forall_ne_some.mpr fun i hi => ?_
    simpa [LastIndexOf, hlist] using (inv.registry_exact k i).mp hi

/-- The operation completes, the session stays empty, and nothing is dispatched. -/
def StaysEmpty (a : Answer) : Prop :=
  ∃ t, a = .next t ∧ EmptySession t ∧ t.events.filter isDispatch = []

section Empty
variable {s : State} (h : EmptySession s)
include h

theorem staysEmpty_respond (r : Result) : StaysEmpty (.next (s.respond r)) :=
  ⟨_, rfl, ⟨h.phase, h.N, h.registry⟩, rfl⟩

theorem staysEmpty_raiseFault (k : FaultKind) : StaysEmpty (raiseFault k s) :=
  ⟨_, rfl, ⟨h.phase, h.N, h.registry⟩, rfl⟩

/-- A refusal changes nothing, so an operation behind the fault check needs a look without a fault only. -/
theorem staysEmpty_unlessFaulted {body : Answer} (hbody : StaysEmpty body) : StaysEmpty (unlessFaulted s body) := by
  cases hf : s.fault with
  | none => rwa [unlessFaulted_of_none hf]
  | some k =>
    rw [unlessFaulted_of_some hf]
    exact staysEmpty_respond h _

theorem EmptySession.execTxPeek_eq : execTxPeek s = unlessFaulted s (.next (s.respond (.offer none))) := by
  rw [execTxPeek, if_pos (.inl h.N)]

theorem staysEmpty_execTxCommit (n : Nat) : StaysEmpty (execTxCommit n s) := by
  refine staysEmpty_unlessFaulted h ?_
  split
  · exact staysEmpty_respond h _
  · rw [h.phase]
    exact staysEmpty_raiseFault h _

theorem staysEmpty_execRx (b : Buffer) (ts : Ts) : StaysEmpty (execRx b ts s) := by
  refine staysEmpty_unlessFaulted h ?_
  rw [h.phase]
  exact ⟨_, rfl, ⟨h.phase, h.N, h.registry⟩, rfl⟩

theorem staysEmpty_decodeOnPort (b : Buffer) : StaysEmpty (decodeOnPort b s) := by
  obtain ⟨r, hr⟩ : ∃ r, decodeResponse b s.station s.registry s.pollList = some r :=
    decodeResponse_answers b s.station (by simp [h.registry, registryLookup])
  rw [decodeOnPort_of_some hr]
  exact staysEmpty_respond h _

/-- No operation but a CONFIGURE leaves the empty session. -/
theorem staysEmpty_exec {i : Instr} (hi : isConfigure i = false) : StaysEmpty (exec i s) := by
  cases i with
  | configure station list => cases hi
  | txPeek =>
    rw [exec, h.execTxPeek_eq]
    exact staysEmpty_unlessFaulted h (staysEmpty_respond h _)
  | txCommit n => exact staysEmpty_execTxCommit h n
  | rx b ts => exact staysEmpty_execRx h b ts
  | cksum b => exact staysEmpty_respond h _
  | encode dest stn cmd => exact staysEmpty_respond h _
  | decode b => exact staysEmpty_decodeOnPort h b
  | status => exact staysEmpty_respond h _
  | reserved op => exact staysEmpty_raiseFault h _
  | reqFrame dest stn cmd => exact staysEmpty_respond h _
  | rspFrame fields => exact staysEmpty_decodeOnPort h _

end Empty

/-- What a run gives after a first operation that answers. -/
theorem runTrace_cons {i : Instr} {s t : State} (h : exec i s = .next t) (rest : List Instr) :
    runTrace (i :: rest) s = (runTrace rest t).map fun out => (t.events ++ out.1, out.2) := by
  simp only [runTrace, h]

theorem runTrace_of_emptySession {ops : List Instr} {s : State} (h : EmptySession s)
    (hops : ∀ i ∈ ops, isConfigure i = false) :
    ∃ es t, runTrace ops s = some (es, t) ∧ EmptySession t ∧ es.filter isDispatch = [] := by
  induction ops generalizing s with
  | nil => exact ⟨[], s, rfl, h, rfl⟩
  | cons i rest ih =>
    obtain ⟨hi, hrest⟩ := List.forall_mem_cons.mp hops
    obtain ⟨t, ht, hempty, hquiet⟩ := staysEmpty_exec h hi
    obtain ⟨es, u, hrun, hu, hes⟩ := ih hempty hrest
    refine ⟨t.events ++ es, u, ?_, hu, ?_⟩
    · rw [runTrace_cons ht, hrun]
      rfl
    · rw [List.filter_append, hquiet, hes, List.append_nil]

end Sys2Proof.Machine

namespace Sys2Proof

open Sys2Proof.Machine

/-- Settles O22: the registry by induction on the poll list from its end, and the two tables of a CONFIGURE in range as
maps over the list. -/
theorem registryBindsLargestIndex : Obligations.RegistryBindsLargestIndex := by
  refine ⟨registryLookup_buildRegistry, fun station list s hin => ?_⟩
  refine ⟨_, exec_configure_of_inRange hin, rfl, fun i e he => ?_⟩
  simp [he]

/-- Settles O51: an empty list is always in range, and the empty session is kept by every operation but a CONFIGURE, so
by every run of them. -/
theorem emptyPollListStaysIdle : Obligations.EmptyPollListStaysIdle := by
  refine ⟨fun s station hst => ⟨_, exec_configure_of_inRange (configInRange_nil hst), rfl, rfl, rfl, rfl⟩, ?_⟩
  intro ops s inv hN hops
  obtain ⟨es, t, hrun, ht, hes⟩ := runTrace_of_emptySession (inv.emptySession hN) hops
  refine ⟨es, t, hrun, ht.phase, hes, fun hf => ?_⟩
  exact ht.execTxPeek_eq.trans (unlessFaulted_of_none hf)

end Sys2Proof

/-! The stitched response frame: its checks and its fields by offset (spec/44_sequencer.md R234, spec/30_encoding.md
R73). -/

namespace Sys2Proof.Machine

/-! ### A sealed frame: covered bytes, their checksum, two terminator bytes -/

section Sealed
variable {covered t2 : Buffer} (ht2 : t2.length = 2)
include ht2

theorem sealed_length : (covered ++ checksum covered ++ t2).length = covered.length + 4 := by
  simp [ht2]

/-- The checksum stands between the bytes it covers and the terminator, so a sealed frame with SOF in front passes the
checks of R142 to R144. -/
theorem passesFrameChecks_sealed (hlen : 15 ≤ covered.length) (hstart : covered[0]? = some sofByte) :
    PassesFrameChecks (covered ++ checksum covered ++ t2) := by
  have hcovered : slice (covered ++ checksum covered ++ t2) 0 covered.length = covered :=
    slice_eq_of_append (before := []) (after := checksum covered ++ t2) (by simp) rfl rfl
  have hcrc : slice (covered ++ checksum covered ++ t2) covered.length (covered.length + 2) = checksum covered :=
    slice_eq_of_append (before := covered) (after := t2) (by simp) rfl (by simp)
  refine ⟨?_, ?_, ?_⟩
  · rw [sealed_length ht2]
    omega
  · rw [List.append_assoc, List.getElem?_append_left (by omega), hstart]
  · rw [sealed_length ht2, Nat.add_sub_cancel, Nat.add_sub_assoc (by decide), hcovered, hcrc]

end Sealed

/-! ### The fields of the stitched frame -/

/-- The bytes of R234's frame that its checksum covers. -/
def stitchCovered (dst src cmd : Addr) (r3 : Buffer) (size : Nat) (payload : Buffer) : Buffer :=
  [sofByte] ++ hexN 3 dst.toNat ++ hexN 3 src.toNat ++ hexN 3 cmd.toNat ++ r3 ++ hexN 2 size ++ payload

section Stitched
variable (dst src cmd : Addr) (r3 : Buffer) (size : Nat) (payload t2 : Buffer)

theorem stitchResponse_eq : stitchResponse dst src cmd r3 size payload t2 =
    stitchCovered dst src cmd r3 size payload ++ checksum (stitchCovered dst src cmd r3 size payload) ++ t2 := rfl

theorem slice_stitchResponse_dst : slice (stitchResponse dst src cmd r3 size payload t2) 1 4 = hexN 3 dst.toNat :=
  slice_eq_of_append (before := [sofByte]) (by simp only [stitchResponse, List.append_assoc]; rfl) rfl (by simp)

theorem slice_stitchResponse_src : slice (stitchResponse dst src cmd r3 size payload t2) 4 7 = hexN 3 src.toNat :=
  slice_eq_of_append (before := [sofByte] ++ hexN 3 dst.toNat)
    (by simp only [stitchResponse, List.append_assoc]; rfl) (by simp) (by simp)

theorem slice_stitchResponse_cmd : slice (stitchResponse dst src cmd r3 size payload t2) 7 10 = hexN 3 cmd.toNat :=
  slice_eq_of_append (before := [sofByte] ++ hexN 3 dst.toNat ++ hexN 3 src.toNat)
    (by simp only [stitchResponse, List.append_assoc]; rfl) (by simp) (by simp)

variable {r3} (hr3 : r3.length = 3)
include hr3

theorem stitchCovered_length : (stitchCovered dst src cmd r3 size payload).length = 15 + payload.length := by
  simp only [stitchCovered, List.length_append, hexN_length, List.length_singleton, hr3]

theorem slice_stitchResponse_size : slice (stitchResponse dst src cmd r3 size payload t2) 13 15 = hexN 2 size :=
  slice_eq_of_append (before := [sofByte] ++ hexN 3 dst.toNat ++ hexN 3 src.toNat ++ hexN 3 cmd.toNat ++ r3)
    (by simp only [stitchResponse, List.append_assoc]; rfl) (by simp [hr3]) (by simp)

theorem slice_stitchResponse_payload :
    slice (stitchResponse dst src cmd r3 size payload t2) 15 (15 + payload.length) = payload :=
  slice_eq_of_append
    (before := [sofByte] ++ hexN 3 dst.toNat ++ hexN 3 src.toNat ++ hexN 3 cmd.toNat ++ r3 ++ hexN 2 size)
    (by simp only [stitchResponse, List.append_assoc]; rfl) (by simp [hr3]) (by simp)

variable {t2} (ht2 : t2.length = 2)
include ht2

theorem stitchResponse_length :
    (stitchResponse dst src cmd r3 size payload t2).length = 15 + payload.length + 4 := by
  rw [stitchResponse_eq, sealed_length ht2, stitchCovered_length dst src cmd size payload hr3]

theorem passesFrameChecks_stitchResponse :
    PassesFrameChecks (stitchResponse dst src cmd r3 size payload t2) :=
  passesFrameChecks_sealed (covered := stitchCovered dst src cmd r3 size payload) ht2
    (by rw [stitchCovered_length dst src cmd size payload hr3]; omega) rfl

end Stitched

/-- Three digits hold a 12-bit field whole. -/
theorem unhex_hexN_addr (a : Addr) : unhex (hexN 3 a.toNat) = some a.toNat := by
  have fits : a.toNat % 16 ^ 3 = a.toNat := Nat.mod_eq_of_lt a.isLt
  rw [unhex_hexN (by decide), fits]

end Sys2Proof.Machine

namespace Sys2Proof

open Sys2Proof.Machine

/-- Settles O15: the frame passes the three frame checks, each field is cut out at its offsets and reads back, and the
payload between them has the length its size field says. -/
theorem stitchedFrameDecodes : Obligations.StitchedFrameDecodes := by
  intro dst src cmd size payload r3 t2 registry list i e hsize hpayload hr3 ht2 hkey he
  have hlen := stitchResponse_length dst src cmd size payload hr3 ht2
  have hfields := decodeResponse_of_fields dst registry list
    (passesFrameChecks_stitchResponse dst src cmd size payload hr3 ht2)
    ((congrArg unhex (slice_stitchResponse_dst ..)).trans (unhex_hexN_addr dst))
    ((congrArg unhex (slice_stitchResponse_src ..)).trans (unhex_hexN_addr src))
    ((congrArg unhex (slice_stitchResponse_cmd ..)).trans (unhex_hexN_addr cmd))
  have hreported : unhex (slice (stitchResponse dst src cmd r3 size payload t2) 13 15) = some size := by
    rw [slice_stitchResponse_size dst src cmd size payload t2 hr3, unhex_hexN (by decide),
      Nat.mod_eq_of_lt (by omega)]
  have hcut : slice (stitchResponse dst src cmd r3 size payload t2) 15
      ((stitchResponse dst src cmd r3 size payload t2).length - 4) = payload := by
    rw [hlen, Nat.add_sub_cancel, slice_stitchResponse_payload dst src cmd size payload t2 hr3]
  have addr (a : Addr) : BitVec.ofNat 12 a.toNat = a := by simp
  have hbound : registryLookup ⟨BitVec.ofNat 12 src.toNat, BitVec.ofNat 12 cmd.toNat⟩ registry = some i := by
    rw [addr, addr, hkey]
  rw [hfields, if_neg (not_not_intro rfl), matchResponse_of_bound _ hreported (by omega) hbound he, hcut, addr, addr,
    addr]

end Sys2Proof

/-! TX_COMMIT and RX: one equation for each row of the sequencer's tables (spec/44_sequencer.md R210 to R227). -/

namespace Sys2Proof.Machine

/-! ### TX_COMMIT -/

section Commit
variable {s : State} {n : Nat}

/-- While a buffer is offered, a count above 0 is compared with its length. -/
theorem exec_txCommit_of_offered (hf : s.fault = none) (hn : n ≠ 0)
    (hp : s.phase = .sendPending ∨ s.phase = .responsePending) : exec (.txCommit n) s = commitCount n s := by
  rw [exec, execTxCommit, unlessFaulted_of_none hf, if_neg hn]
  rcases hp with hp | hp <;> rw [hp]

theorem exec_txCommit_of_nothing_offered (hf : s.fault = none) (hn : n ≠ 0)
    (hp : s.phase = .idle ∨ s.phase = .cycleDone) :
    exec (.txCommit n) s = raiseFault .commitWithoutBuffer s := by
  rw [exec, execTxCommit, unlessFaulted_of_none hf, if_neg hn]
  rcases hp with hp | hp <;> rw [hp]

variable {b : Buffer} (hb : s.reqBuf[s.currentIndex]? = some b)
include hb

/-- The whole buffer of the outstanding request goes out: SEND_PENDING ends (R211). -/
theorem exec_txCommit_sends (hf : s.fault = none) (hp : s.phase = .sendPending) (hlen : b.length = 20) :
    exec (.txCommit 20) s = .next ({ s with phase := .responsePending }.respond .ok) := by
  rw [exec_txCommit_of_offered hf (by decide) (.inl hp), commitCount, hb]
  simp only [if_pos hlen.symm, if_pos hp]

theorem commitCount_of_ne_length (hn : n ≠ b.length) : commitCount n s = raiseFault .commitCountInvalid s := by
  rw [commitCount, hb]
  exact if_neg hn

end Commit

/-! ### RX -/

section Receive
variable {s : State} (b : Buffer) (ts : Ts) (hf : s.fault = none)
include hf

theorem exec_rx_of_idle_or_sendPending (hp : s.phase = .idle ∨ s.phase = .sendPending) :
    exec (.rx b ts) s = .next (s.finish (.signal .idle) [.ignored s.phase]) := by
  rw [exec, execRx, unlessFaulted_of_none hf]
  rcases hp with hp | hp <;> rw [hp]

theorem exec_rx_of_cycleDone (hp : s.phase = .cycleDone) :
    exec (.rx b ts) s = .next (s.finish (.signal .stop) [.ignored .cycleDone]) := by
  rw [exec, execRx, unlessFaulted_of_none hf, hp]

theorem exec_rx_of_responsePending (hp : s.phase = .responsePending) :
    exec (.rx b ts) s = receiveResponse b ts s := by
  rw [exec, execRx, unlessFaulted_of_none hf, hp]

variable {b} (hp : s.phase = .responsePending)
include hp

theorem exec_rx_of_err {k : DecodeError} (hd : decodeResponse b s.station s.registry s.pollList = some (.err k)) :
    exec (.rx b ts) s = .next (s.finish (.signal .idle) [.rejected k]) := by
  rw [exec_rx_of_responsePending b ts hf hp, receiveResponse, hd]
  rfl

variable {r : ResponseRecord} (hd : decodeResponse b s.station s.registry s.pollList = some (.ok r))
include hd

theorem exec_rx_of_ok : exec (.rx b ts) s = attributeResponse r ts s := by
  rw [exec_rx_of_responsePending b ts hf hp, receiveResponse, hd]

theorem exec_rx_of_lenient (ha : s.params.attribution = .lenient) :
    exec (.rx b ts) s = dispatchAndAdvance r.matchedCommand r.payload ts s := by
  rw [exec_rx_of_ok ts hf hp hd, attributeResponse, ha]

variable {e : CommandEntry} (ha : s.params.attribution = .strict) (he : s.pollList[s.currentIndex]? = some e)
include ha he

theorem exec_rx_of_strict_ne (hk : ResponseKey.mk r.sourceAddress r.commandCode ≠ e.key) :
    exec (.rx b ts) s = .next (s.finish (.signal .idle) [.rejected .unexpectedResponse]) := by
  rw [exec_rx_of_ok ts hf hp hd, attributeResponse, ha]
  simp only [he, if_pos hk, rejectResponse]

theorem exec_rx_of_strict_eq (hk : ResponseKey.mk r.sourceAddress r.commandCode = e.key) :
    exec (.rx b ts) s = dispatchAndAdvance e r.payload ts s := by
  rw [exec_rx_of_ok ts hf hp hd, attributeResponse, ha]
  simp only [he, if_neg (not_not_intro hk)]

end Receive

/-! ### The advance (R224) -/

section Advance
variable {s : State} (e : CommandEntry) (p : Buffer) (ts : Ts) (hN : 0 < s.N)
include hN

theorem dispatchAndAdvance_to_next (h : (s.currentIndex + 1) % s.N ≠ 0) :
    dispatchAndAdvance e p ts s =
      .next ({ s with currentIndex := (s.currentIndex + 1) % s.N, phase := .sendPending }.finish
        (.signal .wantWrite) [.dispatched e p ts s.currentIndex]) := by
  rw [dispatchAndAdvance, if_neg hN.ne', if_neg h]

theorem dispatchAndAdvance_to_end (h : (s.currentIndex + 1) % s.N = 0) :
    dispatchAndAdvance e p ts s =
      .next (({ s with currentIndex := 0 }.enterCycleDone).finish (.signal .stop)
        [.dispatched e p ts s.currentIndex]) := by
  rw [dispatchAndAdvance, if_neg hN.ne', if_pos h]

end Advance

/-- Keys are equal exactly when both components are (R184). -/
theorem CommandEntry.mk_eq_key_iff (e : CommandEntry) (device command : Addr) :
    ResponseKey.mk device command = e.key ↔ (device, command) = (e.deviceAddress, e.commandCode) := by
  simp [CommandEntry.key]

end Sys2Proof.Machine

namespace Sys2Proof

open Sys2Proof.Machine

/-- Settles O25: the offered buffer is counted whole. -/
theorem txCommitSendsRequest : Obligations.TxCommitSendsRequest :=
  fun _ _ hf hp hb hlen => exec_txCommit_sends hb hf hp hlen

/-- Settles O27: the two ways into the one fault entry, which finds no fault set. -/
theorem txCommitWrongCountFaults : Obligations.TxCommitWrongCountFaults := by
  refine fun s n hf hn => ⟨fun b hp hb hlen hne => ?_, fun hp => ?_⟩
  · rw [exec_txCommit_of_offered hf hn hp, commitCount_of_ne_length hb (hlen ▸ hne), raiseFault_eq,
      State.recordFault_of_none _ hf]
    rfl
  · rw [exec_txCommit_of_nothing_offered hf hn hp, raiseFault_eq, State.recordFault_of_none _ hf]
    rfl

/-- Settles O28: outside RESPONSE_PENDING the phase alone decides. -/
theorem rxIgnoredOutsideResponsePending : Obligations.RxIgnoredOutsideResponsePending :=
  fun b ts _ hf => ⟨exec_rx_of_idle_or_sendPending b ts hf, exec_rx_of_cycleDone b ts hf⟩

/-- Settles O29: in RESPONSE_PENDING the decoder's error becomes the event. -/
theorem rxRejectsFailedDecode : Obligations.RxRejectsFailedDecode :=
  fun _ ts _ _ hf hp hd => exec_rx_of_err ts hf hp hd

/-- Settles O30: Lenient takes the registry's entry, and the advance goes on or ends the cycle. -/
theorem rxLenientDispatchesAndAdvances : Obligations.RxLenientDispatchesAndAdvances := by
  intro b ts s r hf hp hN ha hd
  rw [exec_rx_of_lenient ts hf hp hd ha]
  exact ⟨dispatchAndAdvance_to_next _ _ ts hN, dispatchAndAdvance_to_end _ _ ts hN⟩

/-- Settles O31: Strict compares the key with the outstanding entry's; on a match the advance is that of Lenient. -/
theorem rxStrictDemandsOutstandingKey : Obligations.RxStrictDemandsOutstandingKey := by
  intro b ts s r e hf hp hN ha hd he
  have hkey := e.mk_eq_key_iff r.sourceAddress r.commandCode
  refine ⟨fun hne => exec_rx_of_strict_ne ts hf hp hd ha he (mt hkey.mp hne), fun heq => ?_⟩
  rw [exec_rx_of_strict_eq ts hf hp hd ha he (hkey.mpr heq)]
  exact ⟨dispatchAndAdvance_to_next _ _ ts hN, dispatchAndAdvance_to_end _ _ ts hN⟩

end Sys2Proof

/-! The session that an operation leaves unchanged, the operations behind a set fault, and the changes of `phase`
(spec/44_sequencer.md R200, R228, R231). -/

namespace Sys2Proof.Machine

/-! ### States of one session -/

section Session
variable {s t u : State}

theorem SameSession.refl (s : State) : SameSession s s :=
  ⟨rfl, rfl, rfl, rfl, rfl, rfl, rfl, rfl, rfl, rfl⟩

theorem SameSession.trans (h : SameSession s t) (h' : SameSession t u) : SameSession s u := by
  simp_all only [SameSession, and_self]

theorem SameSession.phase_eq (h : SameSession s t) : t.phase = s.phase := by
  obtain ⟨-, -, -, -, -, hphase, -⟩ := h
  exact hphase

/-- Result and events are outputs and no part of the session (R79). -/
theorem sameSession_finish (s : State) (r : Result) (es : List Event) : SameSession s (s.finish r es) :=
  SameSession.refl s

theorem sameSession_respond (s : State) (r : Result) : SameSession s (s.respond r) :=
  SameSession.refl s

/-- A fault is recorded beside the session (R257). -/
theorem sameSession_recordFault (s : State) (k : FaultKind) : SameSession s (s.recordFault k) :=
  SameSession.refl s

theorem sameSession_without_fault (s : State) : SameSession { s with fault := none } s :=
  SameSession.refl s

theorem sameSession_raiseFault {k : FaultKind} (h : raiseFault k s = .next t) : SameSession s t := by
  cases h
  exact (sameSession_recordFault s k).trans (sameSession_respond _ _)

theorem sameSession_execTxPeek (h : execTxPeek s = .next t) : SameSession s t := by
  rcases execTxPeek_next h with ⟨k, -, rfl⟩ | ⟨-, -, rfl⟩ | ⟨-, -, b, -, rfl⟩ <;> exact sameSession_respond s _

theorem sameSession_decodeOnPort {b : Buffer} (h : decodeOnPort b s = .next t) : SameSession s t := by
  obtain ⟨r, -, rfl⟩ := decodeOnPort_next h
  exact sameSession_respond s _

/-- CONFIGURE, TX_COMMIT and RX are the only operations that can write the session. -/
theorem exec_next_sameSession {i : Instr} (h : exec i s = .next t) :
    (∃ station list, i = .configure station list) ∨ (∃ n, i = .txCommit n) ∨ (∃ b ts, i = .rx b ts) ∨
      SameSession s t := by
  cases i with
  | configure station list => exact .inl ⟨station, list, rfl⟩
  | txCommit n => exact .inr (.inl ⟨n, rfl⟩)
  | rx b ts => exact .inr (.inr (.inl ⟨b, ts, rfl⟩))
  | txPeek => exact .inr (.inr (.inr (sameSession_execTxPeek h)))
  | decode b => exact .inr (.inr (.inr (sameSession_decodeOnPort h)))
  | rspFrame fields => exact .inr (.inr (.inr (sameSession_decodeOnPort h)))
  | reserved op => exact .inr (.inr (.inr (sameSession_raiseFault h)))
  | cksum b => cases h; exact .inr (.inr (.inr (sameSession_respond s _)))
  | encode dest stn cmd => cases h; exact .inr (.inr (.inr (sameSession_respond s _)))
  | status => cases h; exact .inr (.inr (.inr (sameSession_respond s _)))
  | reqFrame dest stn cmd => cases h; exact .inr (.inr (.inr (sameSession_respond s _)))

/-! ### The rows of R200 -/

theorem exec_configure_phase_ne {station : Nat} {list : List EntryArg}
    (h : exec (.configure station list) s = .next t) (hne : t.phase ≠ s.phase) :
    t.result = some .ok ∧
      ((0 < list.length ∧ t.phase = .sendPending) ∨ (list.length = 0 ∧ t.phase = .idle)) := by
  rcases execConfigure_next h with ⟨reason, -, rfl⟩ | ⟨-, rfl⟩
  · exact absurd rfl hne
  · refine ⟨rfl, ?_⟩
    rcases Nat.eq_zero_or_pos list.length with h0 | h0
    · exact .inr ⟨h0, by simp [h0]⟩
    · exact .inl ⟨h0, by simp [h0]⟩

/-- Every request buffer of a session is a whole request (R36, R124). -/
theorem SessionInv.reqBuf_length (inv : SessionInv s) {i : Nat} {b : Buffer} (hb : s.reqBuf[i]? = some b) :
    b.length = 20 := by
  rw [inv.reqBuf_exact, List.getElem?_map] at hb
  obtain ⟨e, -, rfl⟩ := Option.map_eq_some_iff.mp hb
  exact encodeRequest_length _ _ _

theorem exec_txCommit_phase_ne (inv : SessionInv s) {n : Nat} (h : exec (.txCommit n) s = .next t)
    (hne : t.phase ≠ s.phase) : n = 20 ∧ s.phase = .sendPending ∧ t.phase = .responsePending := by
  rcases execTxCommit_next h with ⟨k, -, rfl⟩ | ⟨-, -, rfl⟩ | ⟨-, -, -, hcount⟩ | ⟨-, -, -, rfl⟩
  case inr.inr.inl =>
    obtain ⟨b, hb, ⟨hn, hp, rfl⟩ | ⟨-, -, rfl⟩ | ⟨-, rfl⟩⟩ := commitCount_next hcount
    · exact ⟨hn.trans (inv.reqBuf_length hb), hp, rfl⟩
    · exact absurd rfl hne
    · exact absurd rfl hne
  all_goals exact absurd rfl hne

theorem exec_rx_phase_ne {b : Buffer} {ts : Ts} (h : exec (.rx b ts) s = .next t) (hne : t.phase ≠ s.phase) :
    s.phase = .responsePending ∧
      ∃ r, decodeResponse b s.station s.registry s.pollList = some (.ok r) ∧
        (((s.currentIndex + 1) % s.N ≠ 0 ∧ t.phase = .sendPending) ∨
          ((s.currentIndex + 1) % s.N = 0 ∧ t.phase = .cycleDone)) := by
  rcases execRx_next h with ⟨k, -, rfl⟩ | ⟨-, -, rfl⟩ | ⟨-, -, rfl⟩ | ⟨-, -, -, k, rfl⟩ | ⟨-, hp, r, e, hd, -, hadv⟩
  case inr.inr.inr.inr =>
    refine ⟨hp, r, hd, ?_⟩
    obtain ⟨-, ⟨hend, rfl⟩ | ⟨hmore, rfl⟩⟩ := dispatchAndAdvance_next hadv
    · exact .inr ⟨hend, rfl⟩
    · exact .inl ⟨hmore, rfl⟩
  all_goals exact absurd rfl hne

end Session

/-! ### Behind a set fault (R231) -/

/-- The answer `a` puts out what `t` puts out, and leaves the session that `t` holds. -/
def AnswersLike (a : Answer) (t : State) : Prop :=
  ∃ u, a = .next u ∧ u.result = t.result ∧ u.events = t.events ∧ SameSession t u

section Faulted
variable {s t : State}

theorem answersLike_respond (h : SameSession t s) (r : Result) : AnswersLike (.next (s.respond r)) (t.respond r) :=
  ⟨_, rfl, rfl, rfl, h⟩

/-- CONFIGURE does not look at the fault register: it checks and writes the same (R180). -/
theorem exec_configure_answersLike {station : Nat} {list : List EntryArg}
    (h : exec (.configure station list) { s with fault := none } = .next t) :
    AnswersLike (exec (.configure station list) s) t := by
  rcases execConfigure_next h with ⟨reason, hcheck, rfl⟩ | ⟨hcheck, rfl⟩
  · rw [exec, execConfigure_of_rejected (s := s) hcheck]
    exact answersLike_respond (sameSession_without_fault s) _
  · rw [exec, execConfigure_of_accepted (s := s) hcheck]
    exact answersLike_respond (SameSession.refl _) _

/-- DECODE reads the station and the tables only (R152). -/
theorem exec_decode_answersLike {b : Buffer} (h : exec (.decode b) { s with fault := none } = .next t) :
    AnswersLike (exec (.decode b) s) t := by
  obtain ⟨r, hr, rfl⟩ := decodeOnPort_next h
  rw [exec, execDecode, decodeOnPort_of_some (s := s) hr]
  exact answersLike_respond (sameSession_without_fault s) _

end Faulted

end Sys2Proof.Machine

namespace Sys2Proof

open Sys2Proof.Machine

/-- Settles O32: by the outcomes of RX, each with its own signal and phase. -/
theorem rxSignalFollowsPhase : Obligations.RxSignalFollowsPhase := by
  intro b ts s t hf h
  rcases execRx_next h with
    ⟨k, hk, -⟩ | ⟨-, hp | hp, rfl⟩ | ⟨-, hp, rfl⟩ | ⟨-, hp, -, k, rfl⟩ | ⟨-, hp, r, e, -, -, hadv⟩
  · rw [hf] at hk
    cases hk
  · simp [hp]
  · simp [hp]
  · simp [hp]
  · simp [hp]
  · obtain ⟨-, ⟨-, rfl⟩ | ⟨-, rfl⟩⟩ := dispatchAndAdvance_next hadv
    · simp
    · simp [hp]

/-- Settles O33: an operation that can write the session at all is a CONFIGURE, a TX_COMMIT or an RX, and each of them
changes `phase` by its own rows only. -/
theorem phaseTransitions : Obligations.PhaseTransitions := by
  intro i s t inv h hne
  rcases exec_next_sameSession h with ⟨station, list, rfl⟩ | ⟨n, rfl⟩ | ⟨b, ts, rfl⟩ | hsame
  · exact .inl ⟨station, list, rfl, exec_configure_phase_ne h hne⟩
  · obtain ⟨rfl, hp, ht⟩ := exec_txCommit_phase_ne inv h hne
    exact .inr (.inl ⟨rfl, hp, ht⟩)
  · obtain ⟨hp, r, hd, hrow⟩ := exec_rx_phase_ne h hne
    exact .inr (.inr ⟨b, ts, r, rfl, hp, hd, hrow⟩)
  · exact absurd hsame.phase_eq hne

/-- Settles O40: the three refused operations begin with the fault check, the others do not read the register. -/
theorem refusedWhileFaulted : Obligations.RefusedWhileFaulted := by
  intro s k hk
  refine ⟨?refused, ?working, ⟨_, rfl, rfl, sameSession_respond s _⟩, fun op => ?reserved⟩
  case refused =>
    rintro i (rfl | ⟨n, rfl⟩ | ⟨b, ts, rfl⟩) <;> exact unlessFaulted_of_some hk
  case working =>
    rintro i (⟨station, list, rfl⟩ | ⟨b, rfl⟩ | ⟨dest, stn, cmd, rfl⟩ | ⟨b, rfl⟩) t ht
    · exact exec_configure_answersLike ht
    · cases ht
      exact answersLike_respond (sameSession_without_fault s) _
    · cases ht
      exact answersLike_respond (sameSession_without_fault s) _
    · exact exec_decode_answersLike ht
  case reserved =>
    exact ⟨_, exec_reserved op s, rfl, by simp [hk], sameSession_raiseFault (exec_reserved op s)⟩

end Sys2Proof

/-! The stall in RESPONSE_PENDING: operations and runs that leave the session as it is (spec/44_sequencer.md R233). -/

namespace Sys2Proof.Machine

/-! ### Waiting for a response -/

/-- The session waits for a response, its index and its registry pointing inside the tables (R36). -/
structure AwaitsResponse (s : State) : Prop where
  phase : s.phase = .responsePending
  offered : ∃ b, s.reqBuf[s.currentIndex]? = some b
  inside : ∀ k i, registryLookup k s.registry = some i → i < s.pollList.length

/-- The registry's indices lie in the poll list (R36). -/
theorem SessionInv.registry_inside {s : State} (inv : SessionInv s) (k : ResponseKey) (i : Nat)
    (h : registryLookup k s.registry = some i) : i < s.pollList.length := by
  obtain ⟨hkey, -⟩ := (inv.registry_exact k i).mp h
  obtain ⟨e, he, -⟩ := Option.map_eq_some_iff.mp hkey
  exact (List.getElem?_eq_some_iff.mp he).1

theorem SessionInv.awaitsResponse {s : State} (inv : SessionInv s) (hp : s.phase = .responsePending) :
    AwaitsResponse s where
  phase := hp
  offered := by
    have hN : s.N ≠ 0 := by
      intro h0
      rw [inv.idle_iff_empty.mpr h0] at hp
      cases hp
    have hlen : s.reqBuf.length = s.N := by rw [inv.reqBuf_exact, List.length_map, inv.pollList_length]
    have hindex : s.currentIndex < s.reqBuf.length := hlen ▸ inv.index_below (Nat.pos_of_ne_zero hN)
    exact ⟨_, List.getElem?_eq_getElem hindex⟩
  inside := inv.registry_inside

/-- The operation completes with the session unchanged and dispatches nothing. -/
def Stalls (s : State) (a : Answer) : Prop :=
  ∃ t, a = .next t ∧ SameSession s t ∧ t.events.filter isDispatch = []

section Stall
variable {s t : State}

theorem AwaitsResponse.of_sameSession (h : AwaitsResponse s) (hs : SameSession s t) : AwaitsResponse t := by
  obtain ⟨-, -, hlist, hreq, hreg, hphase, hindex, -⟩ := hs
  refine ⟨hphase.trans h.phase, ?_, ?_⟩
  · rw [hreq, hindex]
    exact h.offered
  · rw [hreg, hlist]
    exact h.inside

theorem FailsToAdvance.of_sameSession {b : Buffer} (h : FailsToAdvance s b) (hs : SameSession s t) :
    FailsToAdvance t b := by
  obtain ⟨hst, -, hlist, -, hreg, -, hindex, -, -, hparams⟩ := hs
  rwa [FailsToAdvance, hst, hlist, hreg, hindex, hparams]

theorem stalls_respond (s : State) (r : Result) : Stalls s (.next (s.respond r)) :=
  ⟨_, rfl, sameSession_respond s r, rfl⟩

theorem stalls_raiseFault (k : FaultKind) (s : State) : Stalls s (raiseFault k s) :=
  ⟨_, rfl, sameSession_raiseFault rfl, rfl⟩

theorem stalls_rejected (s : State) (k : DecodeError) :
    Stalls s (.next (s.finish (.signal .idle) [.rejected k])) :=
  ⟨_, rfl, sameSession_finish s _ _, rfl⟩

/-- A refusal stalls too, so an operation behind the fault check needs a look without a fault only. -/
theorem stalls_of_unfaulted {body : Answer} (hbody : s.fault = none → Stalls s body) :
    Stalls s (unlessFaulted s body) := by
  cases hf : s.fault with
  | none =>
    rw [unlessFaulted_of_none hf]
    exact hbody hf
  | some k =>
    rw [unlessFaulted_of_some hf]
    exact stalls_respond s _

section Awaiting
variable (h : AwaitsResponse s)
include h

theorem stalls_execTxPeek : Stalls s (execTxPeek s) := by
  refine stalls_of_unfaulted fun _ => ?_
  obtain ⟨b, hb⟩ := h.offered
  split
  · exact stalls_respond s _
  · rw [hb]
    exact stalls_respond s _

/-- A resend is accepted without a change (R213), any other count is a fault (R214). -/
theorem stalls_execTxCommit (n : Nat) : Stalls s (execTxCommit n s) := by
  refine stalls_of_unfaulted fun _ => ?_
  obtain ⟨b, hb⟩ := h.offered
  split
  · exact stalls_respond s _
  rw [h.phase]
  by_cases hn : n = b.length
  · have hp : s.phase ≠ .sendPending := by simp [h.phase]
    simp only [commitCount, hb, if_pos hn, if_neg hp]
    exact stalls_respond s _
  · rw [commitCount_of_ne_length hb hn]
    exact stalls_raiseFault _ s

theorem stalls_exec_rx {b : Buffer} (ts : Ts) (hfail : FailsToAdvance s b) : Stalls s (exec (.rx b ts) s) := by
  cases hf : s.fault with
  | some k => exact stalls_of_unfaulted fun hnone => absurd (hf.symm.trans hnone) (by simp)
  | none =>
    rcases hfail with ⟨k, hd⟩ | ⟨ha, r, e, hd, he, hk⟩
    · rw [exec_rx_of_err ts hf h.phase hd]
      exact stalls_rejected s k
    · rw [exec_rx_of_strict_ne ts hf h.phase hd ha he hk]
      exact stalls_rejected s _

theorem stalls_decodeOnPort (b : Buffer) : Stalls s (decodeOnPort b s) := by
  obtain ⟨r, hr⟩ := decodeResponse_answers b s.station h.inside
  rw [decodeOnPort_of_some hr]
  exact stalls_respond s _

/-- Only a CONFIGURE, or an RX of a buffer that advances, gets a waiting session on. -/
theorem stalls_exec {i : Instr} (hi : isConfigure i = false) (hrx : ∀ b ts, i = .rx b ts → FailsToAdvance s b) :
    Stalls s (exec i s) := by
  cases i with
  | configure station list => cases hi
  | txPeek => exact stalls_execTxPeek h
  | txCommit n => exact stalls_execTxCommit h n
  | rx b ts => exact stalls_exec_rx h ts (hrx b ts rfl)
  | cksum b => exact stalls_respond s _
  | encode dest stn cmd => exact stalls_respond s _
  | decode b => exact stalls_decodeOnPort h b
  | status => exact stalls_respond s _
  | reserved op => exact stalls_raiseFault _ s
  | reqFrame dest stn cmd => exact stalls_respond s _
  | rspFrame fields => exact stalls_decodeOnPort h _

end Awaiting

theorem runTrace_of_awaitsResponse {ops : List Instr} {s : State} (h : AwaitsResponse s)
    (hops : ∀ i ∈ ops, isConfigure i = false) (hrx : ∀ b ts, Instr.rx b ts ∈ ops → FailsToAdvance s b) :
    ∃ es t, runTrace ops s = some (es, t) ∧ SameSession s t ∧ es.filter isDispatch = [] := by
  induction ops generalizing s with
  | nil => exact ⟨[], s, rfl, SameSession.refl s, rfl⟩
  | cons i rest ih =>
    obtain ⟨hi, hrest⟩ := List.forall_mem_cons.mp hops
    obtain ⟨t, ht, hst, hquiet⟩ := stalls_exec h hi fun b ts hb => hrx b ts (hb ▸ List.mem_cons_self)
    obtain ⟨es, u, hrun, htu, hes⟩ := ih (h.of_sameSession hst) hrest fun b ts hmem =>
      (hrx b ts (List.mem_cons_of_mem i hmem)).of_sameSession hst
    refine ⟨t.events ++ es, u, ?_, hst.trans htu, ?_⟩
    · rw [runTrace_cons ht, hrun]
      rfl
    · rw [List.filter_append, hquiet, hes, List.append_nil]

end Stall

end Sys2Proof.Machine

namespace Sys2Proof

open Sys2Proof.Machine

/-- Settles O50: a waiting session is unchanged by every operation that is no CONFIGURE and no RX that advances, so by
every run of them. -/
theorem stallOnError : Obligations.StallOnError := by
  intro ops s inv hp hops hrx
  obtain ⟨es, t, hrun, hsame, hes⟩ := runTrace_of_awaitsResponse (inv.awaitsResponse hp) hops hrx
  obtain ⟨-, -, -, -, -, hphase, hindex, -⟩ := hsame
  exact ⟨es, t, hrun, hphase.trans hp, hindex, hes⟩

end Sys2Proof

/-! The complete poll cycle: one round for each entry, in order (spec/44_sequencer.md R232). -/

namespace Sys2Proof.Machine

/-! ### What a successful decode says -/

/-- The record names the entry that the registry binds its key to, and carries the bytes between the size field and the
checksum (R148, R149). -/
theorem matchResponse_ok {b : Buffer} {registry : Registry} {list : List CommandEntry} {dst src cmd : Nat}
    {r : ResponseRecord} (h : matchResponse b registry list dst src cmd = some (.ok r)) :
    registryLookup ⟨r.sourceAddress, r.commandCode⟩ registry = some r.matchedIndex ∧
      list[r.matchedIndex]? = some r.matchedCommand ∧ r.payload = slice b 15 (b.length - 4) := by
  unfold matchResponse at h
  split at h
  next => cases h
  split at h
  next => cases h
  split at h
  next => cases h
  next i hkey =>
    obtain ⟨e, he, hr⟩ := Option.map_eq_some_iff.mp h
    cases hr
    exact ⟨hkey, he, rfl⟩

theorem decodeResponse_ok {b : Buffer} {station : Addr} {registry : Registry} {list : List CommandEntry}
    {r : ResponseRecord} (h : decodeResponse b station registry list = some (.ok r)) :
    registryLookup ⟨r.sourceAddress, r.commandCode⟩ registry = some r.matchedIndex ∧
      list[r.matchedIndex]? = some r.matchedCommand ∧ r.payload = slice b 15 (b.length - 4) := by
  unfold decodeResponse at h
  split at h
  next => cases h
  split at h
  next => cases h
  split at h
  next => cases h
  split at h
  next =>
    split at h
    next => cases h
    next => exact matchResponse_ok h
  next => cases h

/-- With distinct keys, the registry's entry for a key is the one entry that has it. -/
theorem matchedCommand_of_nodup {b : Buffer} {station : Addr} {entries : List CommandEntry} {r : ResponseRecord}
    {e : CommandEntry} {k : Nat} (hnodup : (entries.map CommandEntry.key).Nodup)
    (hd : decodeResponse b station (buildRegistry entries) entries = some (.ok r)) (he : entries[k]? = some e)
    (hkey : ResponseKey.mk r.sourceAddress r.commandCode = e.key) : r.matchedCommand = e := by
  obtain ⟨hlookup, hentry, -⟩ := decodeResponse_ok hd
  obtain ⟨hlast, -⟩ := (registryLookup_buildRegistry entries _ _).mp hlookup
  have hk : k < (entries.map CommandEntry.key).length := by
    rw [List.length_map]
    exact (List.getElem?_eq_some_iff.mp he).1
  have hsame : k = r.matchedIndex := by
    refine (List.getElem?_inj hk hnodup).mp ?_
    rw [List.getElem?_map, List.getElem?_map, he, hlast, hkey]
    rfl
  rw [← hsame, he] at hentry
  exact (Option.some.inj hentry).symm

/-- A response for the outstanding entry is dispatched to it, under Lenient as under Strict. -/
theorem exec_rx_of_outstanding {b : Buffer} (ts : Ts) {s : State} {r : ResponseRecord} {e : CommandEntry}
    (hf : s.fault = none) (hp : s.phase = .responsePending)
    (hd : decodeResponse b s.station s.registry s.pollList = some (.ok r)) (he : s.pollList[s.currentIndex]? = some e)
    (hkey : ResponseKey.mk r.sourceAddress r.commandCode = e.key) (hmatched : r.matchedCommand = e) :
    exec (.rx b ts) s = dispatchAndAdvance e r.payload ts s := by
  cases ha : s.params.attribution with
  | lenient => rw [exec_rx_of_lenient ts hf hp hd ha, hmatched]
  | strict => exact exec_rx_of_strict_eq ts hf hp hd ha he hkey

/-! ### The session between two rounds -/

/-- The session over `entries` is about to send the request of entry `k`. -/
structure SendsEntry (station : Addr) (entries : List CommandEntry) (k : Nat) (t : State) : Prop where
  phase : t.phase = .sendPending
  index : t.currentIndex = k
  fault : t.fault = none
  station : t.station = station
  N : t.N = entries.length
  pollList : t.pollList = entries
  registry : t.registry = buildRegistry entries
  requests : t.reqBuf.length = entries.length
  request_length : ∀ b ∈ t.reqBuf, b.length = 20

/-- The session after `k` rounds: at the next entry, or done after the last. -/
structure AfterRounds (station : Addr) (entries : List CommandEntry) (k : Nat) (t : State) : Prop where
  index : t.currentIndex = k % entries.length
  sends : k < entries.length → SendsEntry station entries k t
  done : k = entries.length → t.phase = .cycleDone ∧ t.cycleComplete = true

/-- CONFIGURE of a list that is not empty starts before entry 0. -/
theorem afterRounds_configured (station : Nat) {list : List EntryArg} (hne : 0 < list.length) (s : State) :
    AfterRounds (BitVec.ofNat 12 station) (list.map entryOf) 0 ((s.configured station list).respond .ok) where
  index := (Nat.zero_mod _).symm
  sends _ :=
    { phase := by simp [hne]
      index := rfl
      fault := rfl
      station := rfl
      N := by simp
      pollList := rfl
      registry := rfl
      requests := by simp
      request_length := by simp }
  done h := by
    rw [List.length_map] at h
    exact absurd h hne.ne

/-! ### One round -/

section Round
variable {station : Addr} {entries : List CommandEntry} {k : Nat} {s : State} (h : SendsEntry station entries k s)
include h

/-- The commit of the outstanding request, and the state in which its response is awaited. -/
theorem SendsEntry.exec_txCommit (hk : k < entries.length) :
    exec (.txCommit 20) s = .next ({ s with phase := .responsePending }.respond .ok) := by
  have hlt : s.currentIndex < s.reqBuf.length := by rwa [h.index, h.requests]
  exact exec_txCommit_sends (List.getElem?_eq_getElem hlt) h.fault h.phase
    (h.request_length _ (List.getElem_mem hlt))

/-- From awaiting entry `k`, the advance leads to entry `k + 1`, or to the end after the last. -/
theorem SendsEntry.dispatchAndAdvance_awaiting (hk : k < entries.length) (e : CommandEntry) (p : Buffer) (ts : Ts) :
    ∃ t, dispatchAndAdvance e p ts ({ s with phase := .responsePending }.respond .ok) = .next t ∧
      t.events = [.dispatched e p ts k] ∧ AfterRounds station entries (k + 1) t := by
  have hN : 0 < s.N := h.N ▸ Nat.zero_lt_of_lt hk
  have hmod : (s.currentIndex + 1) % s.N = (k + 1) % entries.length := by rw [h.index, h.N]
  rcases Nat.lt_or_eq_of_le (Nat.succ_le_of_lt hk) with hmore | hend
  · have hnext : (k + 1) % entries.length = k + 1 := Nat.mod_eq_of_lt hmore
    refine ⟨_, dispatchAndAdvance_to_next e p ts hN (hmod.trans_ne (by omega)), ?_, hmod, fun _ => ?_,
      fun hlast => absurd hlast hmore.ne⟩
    · simp [h.index]
    · exact { h with phase := rfl, index := hmod.trans hnext }
  · have hwrap : (k + 1) % entries.length = 0 := by rw [← hend, Nat.mod_self]
    refine ⟨_, dispatchAndAdvance_to_end e p ts hN (hmod.trans hwrap), ?_, hwrap.symm,
      fun hlt => absurd hend hlt.ne, fun _ => ⟨rfl, rfl⟩⟩
    simp [h.index]

/-- One round of R232: the response for entry `k` is dispatched to it. -/
theorem SendsEntry.runTrace_round (hnodup : (entries.map CommandEntry.key).Nodup) {b : Buffer} (ts : Ts)
    {r : ResponseRecord} {e : CommandEntry} (he : entries[k]? = some e)
    (hd : decodeResponse b station (buildRegistry entries) entries = some (.ok r))
    (hkey : ResponseKey.mk r.sourceAddress r.commandCode = e.key) :
    ∃ t, runTrace [.txCommit reqLen, .rx b ts] s =
        some ([.dispatched e (slice b 15 (b.length - 4)) ts k], t) ∧ AfterRounds station entries (k + 1) t := by
  obtain ⟨hk, -⟩ := List.getElem?_eq_some_iff.mp he
  obtain ⟨-, -, hpayload⟩ := decodeResponse_ok hd
  obtain ⟨t, ht, hevents, hafter⟩ := h.dispatchAndAdvance_awaiting hk e r.payload ts
  have hdecodes : decodeResponse b s.station s.registry s.pollList = some (.ok r) := by
    rw [h.station, h.registry, h.pollList, hd]
  have houtstanding : s.pollList[s.currentIndex]? = some e := by rw [h.pollList, h.index, he]
  have hrx : exec (.rx b ts) ({ s with phase := .responsePending }.respond .ok) = .next t :=
    (exec_rx_of_outstanding (s := { s with phase := .responsePending }.respond .ok) ts h.fault rfl hdecodes
      houtstanding hkey (matchedCommand_of_nodup hnodup hd he hkey)).trans ht
  refine ⟨t, ?_, hafter⟩
  rw [runTrace_cons (h.exec_txCommit hk), runTrace_cons hrx, ← hpayload]
  simp [runTrace, hevents]

end Round

/-! ### The rounds in order -/

theorem runTrace_append {xs ys : List Instr} {s t u : State} {es fs : List Event}
    (hx : runTrace xs s = some (es, t)) (hy : runTrace ys t = some (fs, u)) :
    runTrace (xs ++ ys) s = some (es ++ fs, u) := by
  induction xs generalizing s es with
  | nil =>
    cases hx
    exact hy
  | cons i rest ih =>
    cases hi : exec i s with
    | next s' =>
      rw [runTrace_cons hi] at hx
      obtain ⟨⟨es', t'⟩, hrest, heq⟩ := Option.map_eq_some_iff.mp hx
      cases heq
      rw [List.cons_append, runTrace_cons hi, ih hrest]
      simp
    | fault r => simp [runTrace, hi] at hx
    | refused r => simp [runTrace, hi] at hx

section Lists
variable {list : List EntryArg} {responses : List (Buffer × Ts)} {k : Nat} {b : Buffer} {ts : Ts}
  (hr : responses[k]? = some (b, ts))
include hr

theorem pollRounds_take_succ :
    pollRounds (responses.take (k + 1)) = pollRounds (responses.take k) ++ [.txCommit reqLen, .rx b ts] := by
  simp [pollRounds, List.take_add_one, hr]

theorem cycleDispatches_take_succ {e : EntryArg} (he : list[k]? = some e) :
    (cycleDispatches list responses).take (k + 1) =
      (cycleDispatches list responses).take k ++
        [.dispatched (entryOf e) (slice b 15 (b.length - 4)) ts k] := by
  have hzip : (list.zip responses)[k]? = some (e, b, ts) := List.getElem?_zip_eq_some.mpr ⟨he, hr⟩
  rw [List.take_add_one, cycleDispatches, List.getElem?_mapIdx, hzip]
  rfl

end Lists

/-- After CONFIGURE and `k` rounds the session stands before entry `k`, and the entries before it have been dispatched in
their order. -/
theorem runTrace_cycle {s : State} {station : Nat} {list : List EntryArg} {responses : List (Buffer × Ts)}
    (hin : ConfigInRange s.params.nMax station list) (hne : 0 < list.length)
    (hnodup : ((list.map entryOf).map CommandEntry.key).Nodup) (hlen : responses.length = list.length)
    (hvalid : ∀ (k : Nat) (b : Buffer) (ts : Ts) (e : EntryArg), responses[k]? = some (b, ts) → list[k]? = some e →
      ∃ r, decodeResponse b (BitVec.ofNat 12 station) (buildRegistry (list.map entryOf)) (list.map entryOf) =
          some (.ok r) ∧ ResponseKey.mk r.sourceAddress r.commandCode = (entryOf e).key)
    {k : Nat} (hk : k ≤ list.length) :
    ∃ t, runTrace (.configure station list :: pollRounds (responses.take k)) s =
        some ((cycleDispatches list responses).take k, t) ∧
      AfterRounds (BitVec.ofNat 12 station) (list.map entryOf) k t := by
  induction k with
  | zero =>
    refine ⟨_, ?_, afterRounds_configured station hne s⟩
    rw [runTrace_cons (exec_configure_of_inRange hin)]
    simp [pollRounds, runTrace]
  | succ k ih =>
    obtain ⟨t, hrun, hafter⟩ := ih (Nat.le_of_succ_le hk)
    have hr : responses[k]? = some responses[k] := List.getElem?_eq_getElem (by omega)
    have he : list[k]? = some list[k] := List.getElem?_eq_getElem hk
    obtain ⟨r, hd, hkey⟩ := hvalid k _ _ _ hr he
    have hentry : (list.map entryOf)[k]? = some (entryOf list[k]) := by rw [List.getElem?_map, he]; rfl
    have hsends := hafter.sends (by rwa [List.length_map])
    obtain ⟨u, hround, hu⟩ := hsends.runTrace_round hnodup responses[k].2 hentry hd hkey
    refine ⟨u, ?_, hu⟩
    rw [pollRounds_take_succ hr, cycleDispatches_take_succ hr he, ← List.cons_append]
    exact runTrace_append hrun hround

end Sys2Proof.Machine

namespace Sys2Proof

open Sys2Proof.Machine

/-- Settles O49: by induction on the rounds, each of which dispatches the outstanding entry and moves on by one. -/
theorem roundRobinCompletion : Obligations.RoundRobinCompletion := by
  intro s station list responses hin hne hnodup hlen hvalid k hk
  obtain ⟨t, hrun, hafter⟩ := runTrace_cycle hin hne hnodup hlen hvalid hk
  have hentries : (list.map entryOf).length = list.length := List.length_map ..
  refine ⟨t, hrun, hentries ▸ hafter.index, fun hlt => ?_, fun hlast => hafter.done (hlast.trans hentries.symm)⟩
  have hbefore : k < (list.map entryOf).length := hentries ▸ hlt
  have hsends := hafter.sends hbefore
  exact ⟨hsends.phase, _, hsends.exec_txCommit hbefore, rfl⟩

end Sys2Proof

/-! What an operation does to the fault register and to the run's record of faults (spec/60_exceptions.md R257,
R258). -/

namespace Sys2Proof.Machine

/-! ### Three ways to treat a fault: leave it, raise one, clear it -/

/-- `t`, the answer to `i` in `s`, raises no fault and leaves register and record, raises one through the one fault
entry (R257), or is that of a CONFIGURE that clears the register and not the record (R258). -/
inductive FaultUpdate (i : Instr) (s t : State) : Prop
  | kept (hfault : t.fault = s.fault) (hrecord : t.faultRecord = s.faultRecord)
      (hresult : ∀ k, t.result ≠ some (.fault k))
  | raised (k : FaultKind) (ht : t = (s.recordFault k).respond (.fault k))
  | cleared (hi : isConfigure i = true) (hfault : t.fault = none) (hrecord : t.faultRecord = s.faultRecord)
      (hresult : t.result = some .ok)

section Update
variable {i : Instr} {s t : State}

/-- A result that is no fault changes neither the register nor the record. -/
theorem faultUpdate_finish {r : Result} (es : List Event) (hr : ∀ k, r ≠ .fault k) :
    FaultUpdate i s (s.finish r es) :=
  .kept rfl rfl fun k h => hr k (Option.some.inj h)

theorem faultUpdate_respond {r : Result} (hr : ∀ k, r ≠ .fault k) : FaultUpdate i s (s.respond r) :=
  faultUpdate_finish [] hr

theorem faultUpdate_execConfigure {station : Nat} {list : List EntryArg} (h : execConfigure station list s = .next t) :
    FaultUpdate (.configure station list) s t := by
  rcases execConfigure_next h with ⟨reason, -, rfl⟩ | ⟨-, rfl⟩
  · exact faultUpdate_respond nofun
  · exact .cleared rfl rfl rfl rfl

theorem faultUpdate_execTxPeek (h : execTxPeek s = .next t) : FaultUpdate i s t := by
  rcases execTxPeek_next h with ⟨k, -, rfl⟩ | ⟨-, -, rfl⟩ | ⟨-, -, b, -, rfl⟩ <;> exact faultUpdate_respond nofun

theorem faultUpdate_commitCount {n : Nat} (h : commitCount n s = .next t) : FaultUpdate i s t := by
  obtain ⟨b, -, ⟨-, -, rfl⟩ | ⟨-, -, rfl⟩ | ⟨-, rfl⟩⟩ := commitCount_next h
  · exact .kept rfl rfl nofun
  · exact faultUpdate_respond nofun
  · exact .raised _ rfl

theorem faultUpdate_execTxCommit {n : Nat} (h : execTxCommit n s = .next t) : FaultUpdate i s t := by
  rcases execTxCommit_next h with ⟨k, -, rfl⟩ | ⟨-, -, rfl⟩ | ⟨-, -, -, hcount⟩ | ⟨-, -, -, rfl⟩
  · exact faultUpdate_respond nofun
  · exact faultUpdate_respond nofun
  · exact faultUpdate_commitCount hcount
  · exact .raised _ rfl

theorem faultUpdate_dispatchAndAdvance {e : CommandEntry} {p : Buffer} {ts : Ts}
    (h : dispatchAndAdvance e p ts s = .next t) : FaultUpdate i s t := by
  obtain ⟨-, ⟨-, rfl⟩ | ⟨-, rfl⟩⟩ := dispatchAndAdvance_next h <;> exact .kept rfl rfl nofun

theorem faultUpdate_execRx {b : Buffer} {ts : Ts} (h : execRx b ts s = .next t) : FaultUpdate i s t := by
  rcases execRx_next h with
    ⟨k, -, rfl⟩ | ⟨-, -, rfl⟩ | ⟨-, -, rfl⟩ | ⟨-, -, -, k, rfl⟩ | ⟨-, -, r, e, -, -, hadv⟩
  case inr.inr.inr.inr => exact faultUpdate_dispatchAndAdvance hadv
  all_goals exact faultUpdate_finish _ nofun

theorem faultUpdate_decodeOnPort {b : Buffer} (h : decodeOnPort b s = .next t) : FaultUpdate i s t := by
  obtain ⟨r, -, rfl⟩ := decodeOnPort_next h
  exact faultUpdate_respond nofun

/-- Every operation treats faults in one of the three ways. -/
theorem faultUpdate_exec (h : exec i s = .next t) : FaultUpdate i s t := by
  cases i with
  | configure station list => exact faultUpdate_execConfigure h
  | txPeek => exact faultUpdate_execTxPeek h
  | txCommit n => exact faultUpdate_execTxCommit h
  | rx b ts => exact faultUpdate_execRx h
  | decode b => exact faultUpdate_decodeOnPort h
  | rspFrame fields => exact faultUpdate_decodeOnPort h
  | reserved op => cases h; exact .raised _ rfl
  | cksum b => cases h; exact faultUpdate_respond nofun
  | encode dest stn cmd => cases h; exact faultUpdate_respond nofun
  | status => cases h; exact faultUpdate_respond nofun
  | reqFrame dest stn cmd => cases h; exact faultUpdate_respond nofun

/-! ### What each way does to the record and to the register -/

theorem FaultUpdate.record_prefix (h : FaultUpdate i s t) : s.faultRecord <+: t.faultRecord := by
  cases h with
  | kept _ hrecord _ => exact hrecord ▸ List.prefix_rfl
  | raised k ht => exact ht ▸ List.prefix_append _ [k]
  | cleared _ _ hrecord _ => exact hrecord ▸ List.prefix_rfl

/-- The answer `fault(k)` comes from the fault entry only, and with the entry's own kind. -/
theorem FaultUpdate.eq_raised (h : FaultUpdate i s t) {k : FaultKind} (hk : t.result = some (.fault k)) :
    t = (s.recordFault k).respond (.fault k) := by
  cases h with
  | kept _ _ hresult => exact absurd hk (hresult k)
  | raised k' ht =>
    subst ht
    obtain rfl : k' = k := by simpa using hk
    rfl
  | cleared _ _ _ hresult => simp [hresult] at hk

theorem FaultUpdate.fault_kept_or_cleared (h : FaultUpdate i s t) {k : FaultKind} (hk : s.fault = some k) :
    t.fault = some k ∨ (t.fault = none ∧ isConfigure i = true ∧ t.result = some .ok) := by
  cases h with
  | kept hfault _ _ => exact .inl (hfault.trans hk)
  | raised k' ht => exact .inl (by simp [ht, hk])
  | cleared hi hfault _ hresult => exact .inr ⟨hfault, hi, hresult⟩

end Update

end Sys2Proof.Machine

namespace Sys2Proof

open Sys2Proof.Machine

/-- Settles O42: by the three ways an operation treats faults. -/
theorem onlyConfigureClearsFault : Obligations.OnlyConfigureClearsFault := by
  intro i s t h
  have hupdate : FaultUpdate i s t := faultUpdate_exec h
  refine ⟨hupdate.record_prefix, fun k hk => ?_, fun k hk => hupdate.fault_kept_or_cleared hk⟩
  rw [hupdate.eq_raised hk]
  rfl

end Sys2Proof

/-! Power-on reset as the session of an empty poll list at the default station (spec/70_reset_and_hazards.md R280). -/

namespace Sys2Proof.Machine

/-- What CONFIGURE writes is the table of R35, whatever the operands. -/
theorem afterConfigure_configured (station : Nat) (list : List EntryArg) (s : State) :
    AfterConfigure station list s (s.configured station list) :=
  ⟨rfl, rfl, rfl, rfl, rfl, rfl, rfl, rfl, rfl, rfl, rfl, rfl⟩

/-- `CONFIGURE 0x3FF, []` writes reset's session over any session: of the state before it only the run's record of
faults, the outputs, the port and the parameters remain. -/
theorem configured_default_nil (s : State) :
    s.configured 0x3FF [] = { State.reset with
      faultRecord := s.faultRecord, result := s.result, events := s.events, port := s.port, params := s.params } :=
  rfl

/-- The check of `CONFIGURE 0x3FF, []` passes in every state, at any capacity. -/
theorem exec_configure_default_nil (s : State) :
    exec (.configure 0x3FF []) s = .next ((s.configured 0x3FF []).respond .ok) :=
  exec_configure_of_inRange (configInRange_nil (by decide))

end Sys2Proof.Machine

namespace Sys2Proof

open Sys2Proof.Machine

/-- Settles O44: reset is a fixed point of what `CONFIGURE 0x3FF, []` writes, and that write takes no session field from
the state before it. -/
theorem resetIsEmptyConfigure : Obligations.ResetIsEmptyConfigure := by
  have fixed : State.reset.configured 0x3FF [] = State.reset := configured_default_nil State.reset
  refine ⟨?after, ?atReset, fun s => ⟨_, exec_configure_default_nil s, ?_⟩⟩
  case after => simpa only [fixed] using afterConfigure_configured 0x3FF [] State.reset
  case atReset =>
    rw [exec_configure_default_nil, fixed]
    rfl
  rw [configured_default_nil]
  exact ⟨rfl, rfl, rfl, rfl⟩

end Sys2Proof

/-! The encoder and the decoder of the three word formats: what each operation code spells, and the fields of both
frames read back (spec/30_encoding.md R71, R73, R79 to R81). -/

namespace Sys2Proof.Machine

/-! ### Request frame words -/

/-- A 12-bit field taken from a number is read back as the number's low 12 bits. -/
theorem encodeRequest_ofNat (dest stn cmd : Nat) :
    encodeRequest (BitVec.ofNat 12 dest).toNat (BitVec.ofNat 12 stn).toNat (BitVec.ofNat 12 cmd).toNat =
      encodeRequest dest stn cmd := by
  rw [← encodeRequest_mod dest stn cmd]
  simp only [BitVec.toNat_ofNat]

theorem decodeRequestFrame_encodeRequest (dest stn cmd : Addr) :
    decodeRequestFrame (encodeRequest dest.toNat stn.toNat cmd.toNat) = .ok (.reqFrame dest stn cmd) := by
  have addr (a : Addr) : BitVec.ofNat 12 a.toNat = a := by simp
  simp only [decodeRequestFrame, slice_encodeRequest_dest, slice_encodeRequest_station, slice_encodeRequest_cmd,
    unhex_hexN_addr, if_true, addr]

/-- Only the exact frame of R120 is a request frame word. -/
theorem decodeRequestFrame_ok {b : Buffer} {i : Instr} (h : decodeRequestFrame b = .ok i) :
    ∃ dest stn cmd, i = .reqFrame (BitVec.ofNat 12 dest) (BitVec.ofNat 12 stn) (BitVec.ofNat 12 cmd) ∧
      encodeRequest dest stn cmd = b := by
  unfold decodeRequestFrame at h
  split at h
  next dest stn cmd _ _ _ =>
    split at h
    next heq => exact ⟨dest, stn, cmd, (Except.ok.inj h).symm, heq⟩
    next => cases h
  next => cases h

/-! ### Response frame words -/

theorem rspBytes_length {f : RspFields} (h : f.WellFormed) : (rspBytes f).length = 19 + f.payload.length := by
  obtain ⟨hdest, hsrc, hcmd, hrsvd, hsize, hcrc, hterm⟩ := h
  simp only [rspBytes, List.length_append, List.length_singleton, hdest, hsrc, hcmd, hrsvd, hsize, hcrc, hterm]
  omega

/-- Well-formed fields fix where each field of the frame ends, the payload's end by the frame's length (R73, R74). -/
theorem rspBytes_inj {f g : RspFields} (hf : f.WellFormed) (hg : g.WellFormed) (h : rspBytes f = rspBytes g) :
    f = g := by
  have hlen : f.payload.length = g.payload.length := by
    have hframe := congrArg List.length h
    rw [rspBytes_length hf, rspBytes_length hg] at hframe
    exact Nat.add_left_cancel hframe
  obtain ⟨fdest, fsrc, fcmd, frsvd, fsize, fcrc, fterm⟩ := hf
  obtain ⟨gdest, gsrc, gcmd, grsvd, gsize, gcrc, gterm⟩ := hg
  obtain ⟨h, hterm⟩ := List.append_inj' h (fterm.trans gterm.symm)
  obtain ⟨h, hcrc⟩ := List.append_inj' h (fcrc.trans gcrc.symm)
  obtain ⟨h, hpayload⟩ := List.append_inj' h hlen
  obtain ⟨h, hsize⟩ := List.append_inj' h (fsize.trans gsize.symm)
  obtain ⟨h, hrsvd⟩ := List.append_inj' h (frsvd.trans grsvd.symm)
  obtain ⟨h, hcmd⟩ := List.append_inj' h (fcmd.trans gcmd.symm)
  obtain ⟨h, hsrc⟩ := List.append_inj' h (fsrc.trans gsrc.symm)
  obtain ⟨hsof, hdest⟩ := List.append_inj' h (fdest.trans gdest.symm)
  cases f
  cases g
  simp_all only [List.cons.injEq, and_true]

/-- Two adjacent sub-buffers make up the one that spans both (R9). -/
theorem slice_append_slice (b : Buffer) {lo mid hi : Nat} (hlo : lo ≤ mid) (hhi : mid ≤ hi) :
    slice b lo mid ++ slice b mid hi = slice b lo hi := by
  have hspan : hi - lo = (mid - lo) + (hi - mid) := by omega
  have hdrop : (b.drop lo).drop (mid - lo) = b.drop mid := by rw [List.drop_drop]; congr 1; omega
  rw [slice, slice, slice, hspan, List.take_add, hdrop]

theorem slice_zero_length (b : Buffer) : slice b 0 b.length = b := by simp [slice]

/-- The fields of R73 cover a buffer of 19 or more bytes without a gap. -/
theorem rspBytes_rspSplit {b : Buffer} (h : 19 ≤ b.length) : rspBytes (rspSplit b) = b := by
  have hsof : [b.headD 0#8] = slice b 0 1 := by
    cases b with
    | nil => simp at h
    | cons x rest => rfl
  simp only [rspBytes, rspSplit, hsof]
  simp (disch := omega) only [slice_append_slice, slice_zero_length]

theorem rspSplit_wellFormed {b : Buffer} (h : 19 ≤ b.length) : (rspSplit b).WellFormed := by
  simp only [RspFields.WellFormed, rspSplit, slice_length]
  omega

theorem decodeResponseFrame_rspBytes {f : RspFields} (h : f.WellFormed) :
    decodeResponseFrame (rspBytes f) = .ok (.rspFrame f) := by
  have hlen : 19 ≤ (rspBytes f).length := by
    rw [rspBytes_length h]
    exact Nat.le_add_right 19 _
  have hsplit : rspSplit (rspBytes f) = f := rspBytes_inj (rspSplit_wellFormed hlen) h (rspBytes_rspSplit hlen)
  rw [decodeResponseFrame, if_neg (Nat.not_lt.mpr hlen), hsplit]

theorem decodeResponseFrame_ok {b : Buffer} {i : Instr} (h : decodeResponseFrame b = .ok i) :
    19 ≤ b.length ∧ i = .rspFrame (rspSplit b) := by
  unfold decodeResponseFrame at h
  split at h
  next => cases h
  next hlen => exact ⟨Nat.not_lt.mp hlen, (Except.ok.inj h).symm⟩

/-! ### Port words -/

/-- What a port word spells is well formed, and is written with the word's own operation code. -/
theorem decodePort_wf_and_op (p : PortWord) :
    (decodePort p).wf = true ∧ ∃ q : PortWord, encode (decodePort p) = .port q ∧ q.op = p.op := by
  have code {n : Nat} (h : p.op.toNat = n) : BitVec.ofNat 4 n = p.op := by simp [← h]
  unfold decodePort
  split
  case h_9 h0 h1 h2 h3 h4 h5 h6 h7 =>
    simp only [imp_false] at h0 h1 h2 h3 h4 h5 h6 h7
    have hreserved : 8 ≤ p.op.toNat := by omega
    exact ⟨decide_eq_true hreserved, _, rfl, rfl⟩
  all_goals next h => exact ⟨rfl, _, rfl, code h⟩

end Sys2Proof.Machine

namespace Sys2Proof

open Sys2Proof.Machine

/-- Settles O1: a port operation comes back by its code and the lines its row reads, a reserved code because bit 3 is
set, and the two frames because each field is cut out at the offsets it was written to. -/
theorem decodeInvertsEncode : Obligations.DecodeInvertsEncode := by
  intro i hwf
  cases i with
  | reserved op => exact congrArg Except.ok (decodePort_of_reservedCode (p := .ofOp op) (of_decide_eq_true hwf))
  | reqFrame dest stn cmd => exact decodeRequestFrame_encodeRequest dest stn cmd
  | rspFrame f => exact decodeResponseFrame_rspBytes (of_decide_eq_true hwf)
  | configure _ _ | txPeek | txCommit _ | rx _ _ | cksum _ | encode _ _ _ | decode _ | status => rfl

/-- Settles O2: by the kind of the word; a frame word is put together again from the fields that were cut out of it. -/
theorem decodedInstrIsWellFormed : Obligations.DecodedInstrIsWellFormed := by
  intro w i h
  cases w with
  | port p =>
    cases h
    exact decodePort_wf_and_op p
  | req20 b =>
    obtain ⟨dest, stn, cmd, rfl, rfl⟩ := decodeRequestFrame_ok h
    exact ⟨rfl, congrArg HostWord.req20 (encodeRequest_ofNat dest stn cmd)⟩
  | rspv b =>
    obtain ⟨hlen, rfl⟩ := decodeResponseFrame_ok h
    exact ⟨decide_eq_true (rspSplit_wellFormed hlen), congrArg HostWord.rspv (rspBytes_rspSplit hlen)⟩

/-- Settles O3: closed words, each evaluated by the decoder. -/
theorem specWordsDecode : Obligations.SpecWordsDecode := by
  refine ⟨rfl, rfl, rfl, rfl, rfl, rfl, rfl, rfl, rfl, rfl, ?request, ?response⟩
  case request => exact decodeRequestFrame_encodeRequest 0x001#12 0x3FF#12 0x006#12
  case response =>
    exact decodeResponseFrame_rspBytes (f := {
      sof := 0x40#8, dest := ascii "3FF", src := ascii "001", cmd := ascii "006", rsvd3 := ascii "000"
      size := ascii "01", payload := ascii "AB", crc := ascii "46", term2 := ascii "*\n" }) (by decide)

end Sys2Proof

/-! Everything an operation can do to the state: seven moves, and what follows from them for the tables, the index, the
events and the invariants (spec/10_state.md R27, R36; spec/44_sequencer.md R200; spec/60_exceptions.md R257, R260). -/

namespace Sys2Proof.Machine

/-! ### The moves -/

/-- The ways into the one fault entry: a reserved code, a count while no buffer is offered, a wrong count for the
offered one (R81, R214, R215). -/
inductive BreaksContract (s : State) : Instr → Prop
  | reserved (op : BitVec 4) : BreaksContract s (.reserved op)
  | nothingOffered (n : Nat) (hn : n ≠ 0) (hp : s.phase = .idle ∨ s.phase = .cycleDone) :
      BreaksContract s (.txCommit n)
  | wrongCount (n : Nat) (hn : n ≠ 0) (b : Buffer) (hb : s.reqBuf[s.currentIndex]? = some b) (hne : n ≠ b.length) :
      BreaksContract s (.txCommit n)

/-- `t` is the next state of `i` in `s`: the operation only answers (without or with an event that is no dispatch),
raises a fault, starts a session, sends a request, or dispatches a response and advances to the next entry or to the end
of the cycle. -/
inductive Move (i : Instr) (s t : State) : Prop
  | responded (r : Result) (ht : t = s.respond r)
  | signalled (b : Buffer) (ts : Ts) (hi : i = .rx b ts) (x : Signal) (ev : Event) (hev : isDispatch ev = false)
      (ht : t = s.finish (.signal x) [ev])
  | raised (k : FaultKind) (hi : BreaksContract s i) (ht : t = (s.recordFault k).respond (.fault k))
  | configured (station : Nat) (list : List EntryArg) (hi : i = .configure station list)
      (hin : ConfigInRange s.params.nMax station list) (ht : t = (s.configured station list).respond .ok)
  | sent (n : Nat) (hi : i = .txCommit n) (hp : s.phase = .sendPending)
      (ht : t = { s with phase := .responsePending }.respond .ok)
  | advanced (b : Buffer) (ts : Ts) (hi : i = .rx b ts) (hp : s.phase = .responsePending) (hN : s.N ≠ 0)
      (e : CommandEntry) (p : Buffer)
      (ht : t = { s with currentIndex := (s.currentIndex + 1) % s.N, phase := .sendPending }.finish
        (.signal .wantWrite) [.dispatched e p ts s.currentIndex])
  | ended (b : Buffer) (ts : Ts) (hi : i = .rx b ts) (hp : s.phase = .responsePending)
      (hwrap : (s.currentIndex + 1) % s.N = 0) (e : CommandEntry) (p : Buffer)
      (ht : t = ({ s with currentIndex := 0 }.enterCycleDone).finish (.signal .stop)
        [.dispatched e p ts s.currentIndex])

section Moves
variable {i : Instr} {s t : State}

theorem move_execConfigure {station : Nat} {list : List EntryArg} (h : execConfigure station list s = .next t) :
    Move (.configure station list) s t := by
  rcases execConfigure_next h with ⟨reason, -, ht⟩ | ⟨hcheck, ht⟩
  · exact .responded _ ht
  · exact .configured station list rfl ((checkConfig_eq_none_iff _ _ _).mp hcheck) ht

/-- TX_PEEK only answers. -/
theorem execTxPeek_responds (h : execTxPeek s = .next t) : ∃ r, t = s.respond r := by
  rcases execTxPeek_next h with ⟨k, -, ht⟩ | ⟨-, -, ht⟩ | ⟨-, -, b, -, ht⟩ <;> exact ⟨_, ht⟩

/-- DECODE and RSP_FRAME only answer. -/
theorem decodeOnPort_responds {b : Buffer} (h : decodeOnPort b s = .next t) : ∃ r, t = s.respond r := by
  obtain ⟨r, -, ht⟩ := decodeOnPort_next h
  exact ⟨_, ht⟩

theorem move_execTxCommit {n : Nat} (h : execTxCommit n s = .next t) : Move (.txCommit n) s t := by
  rcases execTxCommit_next h with ⟨k, -, ht⟩ | ⟨-, -, ht⟩ | ⟨-, hn, -, hcount⟩ | ⟨-, hn, hp, ht⟩
  · exact .responded _ ht
  · exact .responded _ ht
  · obtain ⟨b, hb, ⟨-, hp, ht⟩ | ⟨-, -, ht⟩ | ⟨hne, ht⟩⟩ := commitCount_next hcount
    · exact .sent n rfl hp ht
    · exact .responded _ ht
    · exact .raised _ (.wrongCount n hn b hb hne) ht
  · exact .raised _ (.nothingOffered n hn hp) ht

theorem move_execRx {b : Buffer} {ts : Ts} (h : execRx b ts s = .next t) : Move (.rx b ts) s t := by
  rcases execRx_next h with
    ⟨k, -, ht⟩ | ⟨-, -, ht⟩ | ⟨-, -, ht⟩ | ⟨-, -, -, k, ht⟩ | ⟨-, hp, r, e, -, -, hadv⟩
  · exact .responded _ ht
  · exact .signalled b ts rfl _ _ rfl ht
  · exact .signalled b ts rfl _ _ rfl ht
  · exact .signalled b ts rfl _ _ rfl ht
  · obtain ⟨hN, ⟨hwrap, ht⟩ | ⟨-, ht⟩⟩ := dispatchAndAdvance_next hadv
    · exact .ended b ts rfl hp hwrap e _ ht
    · exact .advanced b ts rfl hp hN e _ ht

/-- Every operation that answers a next state makes one of the moves. -/
theorem move_of_exec (h : exec i s = .next t) : Move i s t := by
  cases i with
  | configure station list => exact move_execConfigure h
  | txPeek => obtain ⟨r, ht⟩ := execTxPeek_responds h; exact .responded r ht
  | txCommit n => exact move_execTxCommit h
  | rx b ts => exact move_execRx h
  | cksum b => cases h; exact .responded _ rfl
  | encode dest stn cmd => cases h; exact .responded _ rfl
  | decode b => obtain ⟨r, ht⟩ := decodeOnPort_responds h; exact .responded r ht
  | status => cases h; exact .responded _ rfl
  | reserved op => cases h; exact .raised _ (.reserved op) rfl
  | reqFrame dest stn cmd => cases h; exact .responded _ rfl
  | rspFrame fields => obtain ⟨r, ht⟩ := decodeOnPort_responds h; exact .responded r ht

end Moves

/-! ### Read-only operations -/

/-- The operations of R57 that write no state, and the two frame rows (log 6). -/
def ReadOnly (i : Instr) : Prop :=
  i = .txPeek ∨ i = .status ∨ (∃ b, i = .decode b) ∨ (∃ b, i = .cksum b) ∨ (∃ d n c, i = .encode d n c) ∨
    (∃ d n c, i = .reqFrame d n c) ∨ ∃ f, i = .rspFrame f

theorem ReadOnly.responds {i : Instr} (hi : ReadOnly i) {s t : State} (h : exec i s = .next t) :
    ∃ r, t = s.respond r := by
  rcases hi with rfl | rfl | ⟨b, rfl⟩ | ⟨b, rfl⟩ | ⟨d, n, c, rfl⟩ | ⟨d, n, c, rfl⟩ | ⟨f, rfl⟩
  · exact execTxPeek_responds h
  · cases h; exact ⟨_, rfl⟩
  · exact decodeOnPort_responds h
  · cases h; exact ⟨_, rfl⟩
  · cases h; exact ⟨_, rfl⟩
  · cases h; exact ⟨_, rfl⟩
  · exact decodeOnPort_responds h

/-- No operation reads the result and the events of the one before it (log 3). -/
theorem exec_respond (i : Instr) (s : State) (r : Result) : exec i (s.respond r) = exec i s := by
  cases i <;> rfl

/-! ### The invariants -/

section Inv
variable {i : Instr} {s t : State}

/-- The invariants speak of the session and of the faults; a state that agrees on both meets them too. -/
theorem SessionInv.of_sameSession (inv : SessionInv s) (hs : SameSession s t)
    (hfault : ∀ k, t.fault = some k → k ∈ t.faultRecord) : SessionInv t := by
  obtain ⟨hst, hN, hlist, hreq, hreg, hphase, hindex, hdone, -, hparams⟩ := hs
  constructor
  case fault_recorded => exact hfault
  all_goals simp only [hst, hN, hlist, hreq, hreg, hphase, hindex, hdone, hparams]
  case idle_iff_empty => exact inv.idle_iff_empty
  case index_below => exact inv.index_below
  case index_zero_when_empty => exact inv.index_zero_when_empty
  case cycleComplete_iff => exact inv.cycleComplete_iff
  case pollList_length => exact inv.pollList_length
  case reqBuf_exact => exact inv.reqBuf_exact
  case registry_canonical => exact inv.registry_canonical
  case registry_exact => exact inv.registry_exact
  case done_at_zero => exact inv.done_at_zero
  case within_capacity => exact inv.within_capacity
  case capacity_positive => exact inv.capacity_positive

/-- A fault that is newly set is the one the record gains. -/
theorem SessionInv.fault_mem_recordFault (inv : SessionInv s) (k : FaultKind) :
    ∀ k', (s.recordFault k).fault = some k' → k' ∈ (s.recordFault k).faultRecord := by
  intro k' hk'
  simp only [State.recordFault_fault, State.recordFault_faultRecord, List.mem_append, List.mem_singleton] at hk' ⊢
  cases hf : s.fault with
  | none => exact .inr (by simpa [hf, eq_comm] using hk')
  | some earlier => exact .inl (inv.fault_recorded k' (by simpa [hf] using hk'))

/-- The frame of a request made from an operand entry is that of the table's entry. -/
theorem encodeRequest_entryOf (station : Nat) (e : EntryArg) :
    encodeRequest (entryOf e).deviceAddress.toNat (BitVec.ofNat 12 station).toNat (entryOf e).commandCode.toNat =
      encodeRequest e.deviceAddress station e.commandCode :=
  encodeRequest_ofNat _ _ _

/-- A CONFIGURE in range writes a session with the invariants, whatever session stood before it. -/
theorem sessionInv_configured {station : Nat} {list : List EntryArg}
    (hin : ConfigInRange s.params.nMax station list) (hcap : 1 ≤ s.params.nMax) :
    SessionInv (s.configured station list) where
  idle_iff_empty := by simp [Nat.pos_iff_ne_zero]
  index_below := id
  index_zero_when_empty _ := rfl
  cycleComplete_iff := by
    rw [State.configured_phase]
    split <;> simp
  pollList_length := by simp
  reqBuf_exact := by
    rw [State.configured_pollList, List.map_map]
    exact List.map_congr_left fun e _ => (encodeRequest_entryOf station e).symm
  registry_canonical := buildRegistry_wf _
  registry_exact := registryLookup_buildRegistry _
  done_at_zero _ := rfl
  within_capacity := by
    obtain ⟨-, hlen, -⟩ := hin
    exact hlen
  capacity_positive := hcap
  fault_recorded := nofun

/-- In a phase other than IDLE the table is not empty. -/
theorem SessionInv.N_ne_zero (inv : SessionInv s) (hp : s.phase ≠ .idle) : s.N ≠ 0 :=
  fun h => hp (inv.idle_iff_empty.mpr h)

theorem SessionInv.sent (inv : SessionInv s) (hp : s.phase = .sendPending) :
    SessionInv { s with phase := .responsePending } :=
  { inv with
    idle_iff_empty := iff_of_false nofun (inv.N_ne_zero (by simp [hp]))
    cycleComplete_iff := inv.cycleComplete_iff.trans (iff_of_false (by simp [hp]) nofun)
    done_at_zero := nofun }

theorem SessionInv.advanced (inv : SessionInv s) (hp : s.phase = .responsePending) (hN : s.N ≠ 0) :
    SessionInv { s with currentIndex := (s.currentIndex + 1) % s.N, phase := .sendPending } :=
  { inv with
    idle_iff_empty := iff_of_false nofun hN
    index_below := Nat.mod_lt _
    index_zero_when_empty := fun h => absurd h hN
    cycleComplete_iff := inv.cycleComplete_iff.trans (iff_of_false (by simp [hp]) nofun)
    done_at_zero := nofun }

theorem SessionInv.ended (inv : SessionInv s) (hp : s.phase = .responsePending) :
    SessionInv ({ s with currentIndex := 0 }.enterCycleDone) :=
  { inv with
    idle_iff_empty := iff_of_false nofun (inv.N_ne_zero (by simp [hp]))
    index_below := id
    index_zero_when_empty := fun _ => rfl
    cycleComplete_iff := iff_of_true rfl rfl
    done_at_zero := fun _ => rfl }

/-- The outputs are no part of what the invariants speak of. -/
theorem SessionInv.finish (inv : SessionInv s) (r : Result) (es : List Event) : SessionInv (s.finish r es) :=
  inv.of_sameSession (sameSession_finish s r es) inv.fault_recorded

theorem SessionInv.move (inv : SessionInv s) (h : Move i s t) : SessionInv t := by
  cases h with
  | responded r ht => exact ht ▸ inv.finish r []
  | signalled b ts hi x ev hev ht => exact ht ▸ inv.finish _ [ev]
  | raised k hi ht =>
    subst ht
    exact inv.of_sameSession (sameSession_recordFault s k) (inv.fault_mem_recordFault k)
  | configured station list hi hin ht => exact ht ▸ (sessionInv_configured hin inv.capacity_positive).finish .ok []
  | sent n hi hp ht => exact ht ▸ (inv.sent hp).finish .ok []
  | advanced b ts hi hp hN e p ht => exact ht ▸ (inv.advanced hp hN).finish _ _
  | ended b ts hi hp hwrap e p ht => exact ht ▸ (inv.ended hp).finish _ _

/-- The waiting transactions are no part of what the invariants speak of. -/
theorem SessionInv.with_port (inv : SessionInv s) (ws : List HostWord) : SessionInv { s with port := ws } :=
  { inv with }

/-! ### A step is `exec` of the front word's instruction -/

theorem step_of_nil (h : s.port = []) : step s = .next s := by
  rw [step, fetch_nil h]

variable {w : HostWord} {rest : List HostWord}

theorem step_of_ok (hport : s.port = w :: rest) (hd : decode w = .ok i) :
    step s = exec i { s with port := rest } := by
  simp only [step, fetch_cons hport, hd]

theorem step_of_error (hport : s.port = w :: rest) {why : DecodeReject} (hd : decode w = .error why) :
    step s = .refused (.undecodable why) := by
  simp only [step, fetch_cons hport, hd]

/-- A step holds the state, performs one instruction without its word, or is refused. -/
theorem step_cases (s : State) :
    (s.port = [] ∧ step s = .next s) ∨
      (∃ w rest i, s.port = w :: rest ∧ decode w = .ok i ∧ step s = exec i { s with port := rest }) ∨
      ∃ w rest why, s.port = w :: rest ∧ decode w = .error why ∧ step s = .refused (.undecodable why) := by
  cases hport : s.port with
  | nil => exact .inl ⟨rfl, step_of_nil hport⟩
  | cons w rest =>
    cases hd : decode w with
    | ok i => exact .inr (.inl ⟨w, rest, i, rfl, hd, step_of_ok hport hd⟩)
    | error why => exact .inr (.inr ⟨w, rest, why, rfl, hd, step_of_error hport hd⟩)

/-! ### From the invariants every operation answers -/

/-- The operation answers a next state. -/
def Answers (a : Answer) : Prop := ∃ t, a = .next t

theorem answers_next (t : State) : Answers (.next t) := ⟨t, rfl⟩

/-- A refusal is a next state, so an operation behind the fault check needs a look at its body only. -/
theorem answers_unlessFaulted {body : Answer} (h : Answers body) : Answers (unlessFaulted s body) := by
  unfold unlessFaulted
  split
  · exact answers_next _
  · exact h

theorem answers_ite {p : Prop} [Decidable p] {a b : Answer} (ha : p → Answers a) (hb : ¬p → Answers b) :
    Answers (if p then a else b) := by
  split
  next h => exact ha h
  next h => exact hb h

theorem answers_dispatchAndAdvance (e : CommandEntry) (p : Buffer) (ts : Ts) (hN : s.N ≠ 0) :
    Answers (dispatchAndAdvance e p ts s) := by
  rw [dispatchAndAdvance, if_neg hN]
  exact answers_ite (fun _ => answers_next _) fun _ => answers_next _

theorem SessionInv.reqBuf_at_index (inv : SessionInv s) (hN : s.N ≠ 0) :
    ∃ b, s.reqBuf[s.currentIndex]? = some b := by
  have hlen : s.reqBuf.length = s.N := by rw [inv.reqBuf_exact, List.length_map, inv.pollList_length]
  exact ⟨_, List.getElem?_eq_getElem (hlen ▸ inv.index_below (Nat.pos_of_ne_zero hN))⟩

theorem SessionInv.pollList_at_index (inv : SessionInv s) (hN : s.N ≠ 0) :
    ∃ e, s.pollList[s.currentIndex]? = some e :=
  ⟨_, List.getElem?_eq_getElem (inv.pollList_length ▸ inv.index_below (Nat.pos_of_ne_zero hN))⟩

section Answers
variable (inv : SessionInv s)
include inv

theorem SessionInv.answers_execTxPeek : Answers (execTxPeek s) := by
  refine answers_unlessFaulted (answers_ite (fun _ => answers_next _) fun hc => ?_)
  obtain ⟨b, hb⟩ := inv.reqBuf_at_index (not_or.mp hc).1
  rw [hb]
  exact answers_next _

theorem SessionInv.answers_commitCount (n : Nat) (hN : s.N ≠ 0) : Answers (commitCount n s) := by
  obtain ⟨b, hb⟩ := inv.reqBuf_at_index hN
  rw [commitCount, hb]
  exact answers_ite (fun _ => answers_ite (fun _ => answers_next _) fun _ => answers_next _) fun _ => answers_next _

theorem SessionInv.answers_execTxCommit (n : Nat) : Answers (execTxCommit n s) := by
  refine answers_unlessFaulted (answers_ite (fun _ => answers_next _) fun _ => ?_)
  split
  next hp => exact inv.answers_commitCount n (inv.N_ne_zero (by simp [hp]))
  next hp => exact inv.answers_commitCount n (inv.N_ne_zero (by simp [hp]))
  next => exact answers_next _
  next => exact answers_next _

theorem SessionInv.answers_attributeResponse (r : ResponseRecord) (ts : Ts) (hN : s.N ≠ 0) :
    Answers (attributeResponse r ts s) := by
  unfold attributeResponse
  split
  · exact answers_dispatchAndAdvance _ _ ts hN
  · obtain ⟨e, he⟩ := inv.pollList_at_index hN
    rw [he]
    exact answers_ite (fun _ => answers_next _) fun _ => answers_dispatchAndAdvance _ _ ts hN

theorem SessionInv.answers_receiveResponse (b : Buffer) (ts : Ts) (hN : s.N ≠ 0) :
    Answers (receiveResponse b ts s) := by
  obtain ⟨d, hd⟩ := decodeResponse_answers b s.station inv.registry_inside
  rw [receiveResponse, hd]
  cases d with
  | err k => exact answers_next _
  | ok r => exact inv.answers_attributeResponse r ts hN

theorem SessionInv.answers_execRx (b : Buffer) (ts : Ts) : Answers (execRx b ts s) := by
  refine answers_unlessFaulted ?_
  split
  next => exact answers_next _
  next => exact answers_next _
  next => exact answers_next _
  next hp => exact inv.answers_receiveResponse b ts (inv.N_ne_zero (by simp [hp]))

theorem SessionInv.answers_decodeOnPort (b : Buffer) : Answers (decodeOnPort b s) := by
  obtain ⟨r, hr⟩ := decodeResponse_answers b s.station inv.registry_inside
  exact ⟨_, decodeOnPort_of_some hr⟩

theorem SessionInv.answers_exec (i : Instr) : Answers (exec i s) := by
  cases i with
  | configure station list =>
    rw [exec, execConfigure]
    split <;> exact answers_next _
  | txPeek => exact inv.answers_execTxPeek
  | txCommit n => exact inv.answers_execTxCommit n
  | rx b ts => exact inv.answers_execRx b ts
  | decode b => exact inv.answers_decodeOnPort b
  | rspFrame fields => exact inv.answers_decodeOnPort _
  | cksum _ | encode _ _ _ | status | reserved _ | reqFrame _ _ _ => exact answers_next _

/-- A host within its contract takes none of the ways into the fault entry (R290). -/
theorem SessionInv.not_breaksContract (h : HostKeepsContract s i) : ¬ BreaksContract s i := by
  intro hbreak
  cases hbreak with
  | reserved op => exact h
  | nothingOffered n hn hp =>
    obtain ⟨-, hoffered⟩ := h.resolve_left hn
    rcases hp with hp | hp <;> simp [hp] at hoffered
  | wrongCount n hn b hb hne =>
    obtain ⟨hcount, -⟩ := h.resolve_left hn
    exact hne (hcount.trans (inv.reqBuf_length hb).symm)

end Answers

end Inv

end Sys2Proof.Machine

namespace Sys2Proof

open Sys2Proof.Machine

/-- Settles O47: each move keeps the invariants, and a step performs an instruction in the state without its word. -/
theorem stepKeepsInv : Obligations.StepKeepsInv := by
  refine ⟨fun i s t inv h => inv.move (move_of_exec h), fun s t inv h => ?_⟩
  rcases step_cases s with ⟨-, hstep⟩ | ⟨w, rest, i, -, -, hstep⟩ | ⟨w, rest, why, -, -, hstep⟩
  all_goals rw [hstep] at h
  · cases h
    exact inv
  · exact (inv.with_port rest).move (move_of_exec h)
  · cases h

/-- Settles O48: the index and the registry point inside the tables, so no operation takes one of the model's own
faults. -/
theorem invNeverStops : Obligations.InvNeverStops := by
  refine fun s inv => ⟨inv.answers_exec, ?_⟩
  rcases step_cases s with ⟨-, hstep⟩ | ⟨w, rest, i, -, -, hstep⟩ | hrefused
  · exact .inl ⟨s, hstep⟩
  · exact .inl (hstep ▸ (inv.with_port rest).answers_exec i)
  · exact .inr hrefused

/-- Settles O46: reset is what a CONFIGURE in range writes. -/
theorem resetMeetsInv : Obligations.ResetMeetsInv := by
  have hcap : 1 ≤ State.reset.params.nMax := Nat.le_add_left 1 _
  have hreset : State.reset.configured 0x3FF [] = State.reset := configured_default_nil State.reset
  rw [Obligations.ResetMeetsInv, ← hreset]
  exact sessionInv_configured (configInRange_nil (by decide)) hcap

/-- Settles O4: the two answers of the decoder for the front word. -/
theorem stepRunsDecodedInstr : Obligations.StepRunsDecodedInstr :=
  fun _ _ _ hport => ⟨fun _ hd => step_of_ok hport hd, fun _ hd => step_of_error hport hd⟩

/-- Settles O5: there is nothing to fetch. -/
theorem stepHoldsStateWhenIdlePort : Obligations.StepHoldsStateWhenIdlePort :=
  fun _ hport => step_of_nil hport

/-- Settles O23: of the moves only a started session writes a table. -/
theorem tablesImmutableBetweenConfigures : Obligations.TablesImmutableBetweenConfigures := by
  intro i s t hi h
  cases move_of_exec h with
  | configured station list hconf => simp [hconf, isConfigure] at hi
  | responded | signalled | raised | sent | advanced | ended =>
    subst t
    exact ⟨rfl, rfl, rfl, rfl, rfl, rfl⟩

/-- Settles O34: of the moves only a started session and the two advances write the index. -/
theorem indexMovesByOne : Obligations.IndexMovesByOne := by
  intro i s t h hne
  cases move_of_exec h with
  | configured station list hi hin ht => exact .inl ⟨hi ▸ rfl, ht ▸ rfl, ht ▸ rfl⟩
  | advanced b ts hi hp hN e p ht => exact .inr ⟨hp, ht ▸ rfl, b, ts, e, p, hi, ht ▸ rfl⟩
  | ended b ts hi hp hwrap e p ht => exact .inr ⟨hp, hwrap ▸ ht ▸ rfl, b, ts, e, p, hi, ht ▸ rfl⟩
  | responded | signalled | raised | sent =>
    subst t
    exact absurd rfl hne

/-- Settles O36: each move puts out no event, or is an RX with one. -/
theorem atMostOneEvent : Obligations.AtMostOneEvent := by
  intro i s t h
  cases move_of_exec h with
  | signalled b ts hi | advanced b ts hi | ended b ts hi =>
    subst t
    exact ⟨Nat.le_refl 1, fun _ => ⟨b, ts, hi⟩⟩
  | responded | raised | configured | sent =>
    subst t
    exact ⟨Nat.zero_le 1, fun hne => absurd rfl hne⟩

/-- Settles O37: the two moves that dispatch are the two that leave RESPONSE_PENDING. -/
theorem dispatchExactlyOnAdvance : Obligations.DispatchExactlyOnAdvance := by
  intro i s t h hi
  cases move_of_exec h with
  | configured station list hconf => simp [hconf, isConfigure] at hi
  | advanced b ts hi hp hN e p ht =>
    subst t
    exact ⟨iff_of_true rfl ⟨hp, .inl rfl⟩, Nat.le_refl 1⟩
  | ended b ts hi hp hwrap e p ht =>
    subst t
    exact ⟨iff_of_true rfl ⟨hp, .inr rfl⟩, Nat.le_refl 1⟩
  | sent n hi hp ht =>
    subst t
    simp [hp]
  | signalled b ts hi x ev hev ht =>
    subst t
    simp +contextual [hev]
  | responded | raised =>
    subst t
    simp +contextual

/-- Settles O38: a read-only operation only answers, and no operation reads the answer of the one before it. -/
theorem readOnlyOperationsRepeat : Obligations.ReadOnlyOperationsRepeat := by
  intro i s t hi h
  obtain ⟨r, rfl⟩ := ReadOnly.responds hi h
  exact ⟨rfl, (exec_respond i s r).trans h⟩

/-- Settles O41: the answer `fault(k)` comes from the one fault entry, which writes the register and the record only. -/
theorem faultsArePrecise : Obligations.FaultsArePrecise := by
  intro i s t k h hk
  have hupdate : FaultUpdate i s t := faultUpdate_exec h
  rw [hupdate.eq_raised hk]
  refine ⟨sameSession_recordFault s k, ?_, rfl, rfl⟩
  cases hf : s.fault <;> simp [hf]

/-- Settles O43: the operation answers by the invariants, and its move is none that raises a fault. -/
theorem contractKeptRaisesNoFault : Obligations.ContractKeptRaisesNoFault := by
  intro i s inv hkeeps
  obtain ⟨t, h⟩ := inv.answers_exec i
  refine ⟨t, h, ?_⟩
  cases move_of_exec h with
  | raised k hbreak => exact absurd hbreak (inv.not_breaksContract hkeeps)
  | configured =>
    subst t
    exact ⟨rfl, fun _ => rfl⟩
  | responded | signalled | sent | advanced | ended =>
    subst t
    exact ⟨rfl, id⟩

end Sys2Proof

/-! The renaming of the opaque tokens META and TS commutes with every operation: they are passed through and never
inspected (spec/00_scope.md R8). -/

namespace Sys2Proof.Machine

/-! ### What a renaming leaves alone -/

section Rename
variable (f : Meta → Meta) (g : Ts → Ts)

@[simp] theorem State.rename_station (s : State) : (s.rename f g).station = s.station := rfl
@[simp] theorem State.rename_N (s : State) : (s.rename f g).N = s.N := rfl
@[simp] theorem State.rename_reqBuf (s : State) : (s.rename f g).reqBuf = s.reqBuf := rfl
@[simp] theorem State.rename_registry (s : State) : (s.rename f g).registry = s.registry := rfl
@[simp] theorem State.rename_phase (s : State) : (s.rename f g).phase = s.phase := rfl
@[simp] theorem State.rename_currentIndex (s : State) : (s.rename f g).currentIndex = s.currentIndex := rfl
@[simp] theorem State.rename_fault (s : State) : (s.rename f g).fault = s.fault := rfl
@[simp] theorem State.rename_params (s : State) : (s.rename f g).params = s.params := rfl
@[simp] theorem State.rename_pollList (s : State) :
    (s.rename f g).pollList = s.pollList.map (CommandEntry.rename f) := rfl
@[simp] theorem State.rename_port (s : State) : (s.rename f g).port = s.port.map (HostWord.rename f g) := rfl
@[simp] theorem CommandEntry.rename_key (e : CommandEntry) : (e.rename f).key = e.key := rfl

/-- An answer of an operation, its result renamed with the state. -/
theorem renameAnswer_respond (s : State) (r : Result) :
    renameAnswer f g (.next (s.respond r)) = .next ((s.rename f g).respond (r.rename f)) := rfl

theorem renameAnswer_unlessFaulted (s : State) (body : Answer) :
    renameAnswer f g (unlessFaulted s body) = unlessFaulted (s.rename f g) (renameAnswer f g body) := by
  cases hf : s.fault with
  | none => rw [unlessFaulted_of_none hf, unlessFaulted_of_none (s := s.rename f g) hf]
  | some k =>
    rw [unlessFaulted_of_some hf, unlessFaulted_of_some (s := s.rename f g) hf, renameAnswer_respond]
    rfl

/-- A renaming reaches the answer of whichever branch is taken. -/
theorem renameAnswer_ite (p : Prop) [Decidable p] (a b : Answer) :
    renameAnswer f g (if p then a else b) = if p then renameAnswer f g a else renameAnswer f g b :=
  apply_ite (renameAnswer f g) p a b

/-! ### CONFIGURE -/

/-- The configuration check reads no metadata (R181). -/
theorem checkConfig_rename (nMax station : Nat) (list : List EntryArg) :
    checkConfig nMax station (list.map (EntryArg.rename f)) = checkConfig nMax station list := by
  simp only [checkConfig, List.length_map, List.findIdx?_map]
  rfl

/-- The registry is built from the keys only (R183). -/
theorem bindFrom_rename (entries : List CommandEntry) (m : Registry) (i : Nat) :
    bindFrom m i (entries.map (CommandEntry.rename f)) = bindFrom m i entries := by
  induction entries generalizing m i with
  | nil => rfl
  | cons e rest ih => exact ih _ _

theorem map_entryOf_rename (list : List EntryArg) :
    (list.map (EntryArg.rename f)).map entryOf = (list.map entryOf).map (CommandEntry.rename f) := by
  rw [List.map_map, List.map_map]
  rfl

theorem configured_rename (station : Nat) (list : List EntryArg) (s : State) :
    (s.rename f g).configured station (list.map (EntryArg.rename f)) = (s.configured station list).rename f g := by
  have hregistry : buildRegistry ((list.map entryOf).map (CommandEntry.rename f)) =
      buildRegistry (list.map entryOf) := bindFrom_rename f _ _ _
  have hrequests : ((list.map (EntryArg.rename f)).map fun e => encodeRequest e.deviceAddress station e.commandCode) =
      list.map fun e => encodeRequest e.deviceAddress station e.commandCode := List.map_map
  simp only [State.configured, map_entryOf_rename, hregistry, hrequests, List.length_map]
  rfl

theorem execConfigure_rename (station : Nat) (list : List EntryArg) (s : State) :
    execConfigure station (list.map (EntryArg.rename f)) (s.rename f g) =
      renameAnswer f g (execConfigure station list s) := by
  have hcheck := checkConfig_rename f s.params.nMax station list
  cases h : checkConfig s.params.nMax station list with
  | some reason =>
    rw [execConfigure_of_rejected (s := s.rename f g) (hcheck.trans h), execConfigure_of_rejected h]
    rfl
  | none =>
    rw [execConfigure_of_accepted (s := s.rename f g) (hcheck.trans h), execConfigure_of_accepted h,
      configured_rename]
    rfl

/-! ### TX_PEEK and TX_COMMIT -/

theorem execTxPeek_rename (s : State) : execTxPeek (s.rename f g) = renameAnswer f g (execTxPeek s) := by
  rw [execTxPeek, execTxPeek, renameAnswer_unlessFaulted]
  simp only [renameAnswer_ite, State.rename_N, State.rename_phase, State.rename_reqBuf, State.rename_currentIndex]
  cases s.reqBuf[s.currentIndex]? <;> rfl

theorem commitCount_rename (n : Nat) (s : State) :
    commitCount n (s.rename f g) = renameAnswer f g (commitCount n s) := by
  simp only [commitCount, State.rename_phase, State.rename_reqBuf, State.rename_currentIndex]
  cases s.reqBuf[s.currentIndex]? with
  | none => rfl
  | some b =>
    simp only [renameAnswer_ite]
    rfl

theorem execTxCommit_rename (n : Nat) (s : State) :
    execTxCommit n (s.rename f g) = renameAnswer f g (execTxCommit n s) := by
  rw [execTxCommit, execTxCommit, renameAnswer_unlessFaulted]
  simp only [renameAnswer_ite, State.rename_phase, commitCount_rename]
  cases s.phase <;> rfl

/-! ### The decoder and RX -/

/-- The decoder passes the matched entry's metadata through and reads none (R140, R149). -/
theorem matchResponse_rename (b : Buffer) (registry : Registry) (list : List CommandEntry) (dst src cmd : Nat) :
    matchResponse b registry (list.map (CommandEntry.rename f)) dst src cmd =
      (matchResponse b registry list dst src cmd).map (DecodeResult.rename f) := by
  unfold matchResponse
  split
  · rfl
  · split
    · rfl
    · split
      · rfl
      · rw [List.getElem?_map, Option.map_map, Option.map_map]
        rfl

theorem decodeResponse_rename (b : Buffer) (station : Addr) (registry : Registry) (list : List CommandEntry) :
    decodeResponse b station registry (list.map (CommandEntry.rename f)) =
      (decodeResponse b station registry list).map (DecodeResult.rename f) := by
  simp only [decodeResponse, matchResponse_rename]
  split
  · rfl
  · split
    · rfl
    · split
      · rfl
      · split
        · split <;> rfl
        · rfl

theorem decodeOnPort_rename (b : Buffer) (s : State) :
    decodeOnPort b (s.rename f g) = renameAnswer f g (decodeOnPort b s) := by
  simp only [decodeOnPort, State.rename_station, State.rename_registry, State.rename_pollList, decodeResponse_rename]
  cases decodeResponse b s.station s.registry s.pollList <;> rfl

theorem dispatchAndAdvance_rename (e : CommandEntry) (p : Buffer) (ts : Ts) (s : State) :
    dispatchAndAdvance (e.rename f) p (g ts) (s.rename f g) = renameAnswer f g (dispatchAndAdvance e p ts s) := by
  simp only [dispatchAndAdvance, renameAnswer_ite]
  rfl

/-- Strict compares keys, which hold no metadata (R227). -/
theorem attributeResponse_rename (r : ResponseRecord) (ts : Ts) (s : State) :
    attributeResponse { r with matchedCommand := r.matchedCommand.rename f } (g ts) (s.rename f g) =
      renameAnswer f g (attributeResponse r ts s) := by
  simp only [attributeResponse, State.rename_params, State.rename_pollList, State.rename_currentIndex,
    List.getElem?_map, dispatchAndAdvance_rename]
  split
  · rfl
  · cases s.pollList[s.currentIndex]? with
    | none => rfl
    | some e =>
      simp only [Option.map_some, CommandEntry.rename_key, dispatchAndAdvance_rename, renameAnswer_ite]
      rfl

theorem receiveResponse_rename (b : Buffer) (ts : Ts) (s : State) :
    receiveResponse b (g ts) (s.rename f g) = renameAnswer f g (receiveResponse b ts s) := by
  simp only [receiveResponse, State.rename_station, State.rename_registry, State.rename_pollList,
    decodeResponse_rename]
  rcases decodeResponse b s.station s.registry s.pollList with _ | r | k
  · rfl
  · exact attributeResponse_rename f g r ts s
  · rfl

theorem execRx_rename (b : Buffer) (ts : Ts) (s : State) :
    execRx b (g ts) (s.rename f g) = renameAnswer f g (execRx b ts s) := by
  rw [execRx, execRx, renameAnswer_unlessFaulted]
  simp only [State.rename_phase, receiveResponse_rename]
  cases s.phase <;> rfl

/-! ### Every operation, and the step -/

theorem exec_rename (i : Instr) (s : State) :
    exec (renameInstr f g i) (s.rename f g) = renameAnswer f g (exec i s) := by
  cases i with
  | configure station list => exact execConfigure_rename f g station list s
  | txPeek => exact execTxPeek_rename f g s
  | txCommit n => exact execTxCommit_rename f g n s
  | rx b ts => exact execRx_rename f g b ts s
  | decode b => exact decodeOnPort_rename f g b s
  | rspFrame fields => exact decodeOnPort_rename f g _ s
  | cksum _ | encode _ _ _ | status | reserved _ | reqFrame _ _ _ => rfl

theorem decodePort_rename (p : PortWord) :
    decodePort { p with ts := g p.ts, list := p.list.map (EntryArg.rename f) } = renameInstr f g (decodePort p) := by
  simp only [decodePort]
  split <;> rfl

/-- A request frame spells an instruction without tokens. -/
theorem renameInstr_of_decodeRequestFrame {b : Buffer} {i : Instr} (h : decodeRequestFrame b = .ok i) :
    renameInstr f g i = i := by
  obtain ⟨dest, stn, cmd, rfl, -⟩ := decodeRequestFrame_ok h
  rfl

/-- A response frame spells an instruction without tokens. -/
theorem renameInstr_of_decodeResponseFrame {b : Buffer} {i : Instr} (h : decodeResponseFrame b = .ok i) :
    renameInstr f g i = i := by
  obtain ⟨-, rfl⟩ := decodeResponseFrame_ok h
  rfl

theorem decode_rename_of_ok {w : HostWord} {i : Instr} (h : decode w = .ok i) :
    decode (HostWord.rename f g w) = .ok (renameInstr f g i) := by
  cases w with
  | port p =>
    cases h
    exact congrArg Except.ok (decodePort_rename f g p)
  | req20 b => rwa [renameInstr_of_decodeRequestFrame f g h]
  | rspv b => rwa [renameInstr_of_decodeResponseFrame f g h]

/-- A word that spells no instruction is a frame, and holds no token. -/
theorem decode_rename_of_error {w : HostWord} {why : DecodeReject} (h : decode w = .error why) :
    decode (HostWord.rename f g w) = .error why := by
  cases w with
  | port p => cases h
  | req20 b => exact h
  | rspv b => exact h

theorem step_rename (s : State) : step (s.rename f g) = renameAnswer f g (step s) := by
  have port_cons {w : HostWord} {rest : List HostWord} (h : s.port = w :: rest) :
      (s.rename f g).port = HostWord.rename f g w :: rest.map (HostWord.rename f g) := by
    rw [State.rename_port, h, List.map_cons]
  rcases step_cases s with ⟨hport, hstep⟩ | ⟨w, rest, i, hport, hd, hstep⟩ | ⟨w, rest, why, hport, hd, hstep⟩
  · rw [hstep, step_of_nil (by rw [State.rename_port, hport, List.map_nil])]
    rfl
  · rw [hstep, step_of_ok (port_cons hport) (decode_rename_of_ok f g hd), ← exec_rename]
    rfl
  · rw [hstep, step_of_error (port_cons hport) (decode_rename_of_error f g hd)]
    rfl

end Rename

end Sys2Proof.Machine

namespace Sys2Proof

open Sys2Proof.Machine

/-- Settles O52: a simulation, one lemma for each operation; a step decodes the renamed word to the renamed
instruction. -/
theorem opaqueTokensOnlyPassThrough : Obligations.OpaqueTokensOnlyPassThrough :=
  fun f g s => ⟨fun i => exec_rename f g i s, step_rename f g s⟩

end Sys2Proof

/-! Hex text digit by digit, what a field may hold, and the low bits a request keeps (spec/00_scope.md R11,
spec/41_encoder.md R123). -/

namespace Sys2Proof.Machine

/-! ### The digits that are written -/

theorem hexDigit_eq_getElem? : ∀ v, v < 16 → some (hexDigit v) = (ascii "0123456789ABCDEF")[v]? := by
  decide

/-- Digit `j` of `n` is the `j`-th from the most significant (R11, R53). -/
theorem getElem?_hexN {n j : Nat} (hj : j < n) (v : Nat) :
    (hexN n v)[j]? = some (hexDigit (v / 16 ^ (n - 1 - j) % 16)) := by
  induction n generalizing v with
  | zero => exact absurd hj (Nat.not_lt_zero j)
  | succ n ih =>
    rw [hexN]
    rcases Nat.lt_succ_iff_lt_or_eq.mp hj with hlt | rfl
    · have hshift : n + 1 - 1 - j = n - 1 - j + 1 := by omega
      rw [List.getElem?_append_left (by rwa [hexN_length]), ih hlt, Nat.div_div_eq_div_mul, hshift, Nat.pow_succ']
    · rw [List.getElem?_append_right (by rw [hexN_length])]
      simp

/-! ### The digits that are read -/

/-- The bytes that are hex digits, in both letter cases (R11). -/
abbrev hexAlphabet : Buffer := ascii "0123456789ABCDEFabcdef"

theorem unhexDigit_eq_none_iff : ∀ c : Byte, unhexDigit c = none ↔ c ∉ hexAlphabet := by
  decide

theorem unhexFrom_eq_none_iff (acc : Nat) (f : Buffer) :
    unhexFrom acc f = none ↔ ∃ c ∈ f, c ∉ hexAlphabet := by
  induction f generalizing acc with
  | nil => simp [unhexFrom]
  | cons c rest ih =>
    rw [unhexFrom, List.exists_mem_cons_iff, ← unhexDigit_eq_none_iff]
    cases unhexDigit c with
    | none => simp
    | some d => simp [ih]

/-- A field is read unless it is empty or holds a byte that is no hex digit (R11). -/
theorem unhex_eq_none_iff (f : Buffer) : unhex f = none ↔ f = [] ∨ ∃ c ∈ f, c ∉ hexAlphabet := by
  by_cases hf : f = []
  · exact iff_of_true (hf ▸ rfl) (.inl hf)
  · rw [unhex_of_ne_nil hf, unhexFrom_eq_none_iff, or_iff_right hf]

/-- Bytes that read as the same digit may be exchanged in a field. -/
theorem unhex_congr_digit {u l : Byte} (h : unhexDigit u = unhexDigit l) (p q : Buffer) :
    unhex (p ++ u :: q) = unhex (p ++ l :: q) := by
  rw [unhex_of_ne_nil (by simp), unhex_of_ne_nil (by simp), unhexFrom_append, unhexFrom_append]
  simp only [unhexFrom, h]

theorem unhexDigit_letter_case : ∀ i : Fin 6,
    unhexDigit ((ascii "ABCDEF").get i) = unhexDigit ((ascii "abcdef").get i) := by
  decide

end Sys2Proof.Machine

namespace Sys2Proof

open Sys2Proof.Machine

/-- Settles O6: the written digits by induction on their number, the read ones by induction on the field. -/
theorem hexTextReadsBack : Obligations.HexTextReadsBack := by
  refine ⟨fun n v => ⟨hexN_length n v, fun j hj => ?digit, fun hn => unhex_hexN hn v⟩, unhex_eq_none_iff,
    fun p q i u l hu hl => ?letterCase⟩
  case digit =>
    rw [getElem?_hexN hj, hexDigit_eq_getElem? _ (Nat.mod_lt _ (by decide))]
  case letterCase =>
    obtain ⟨hi, rfl⟩ := List.getElem?_eq_some_iff.mp hu
    obtain ⟨-, rfl⟩ := List.getElem?_eq_some_iff.mp hl
    exact unhex_congr_digit (unhexDigit_letter_case ⟨i, hi⟩) p q

/-- Settles O11: equal frames have equal fields, a field of three digits is its value modulo `16 ^ 3`, and masking first
changes no frame. -/
theorem encodeKeepsLowTwelveBits : Obligations.EncodeKeepsLowTwelveBits := by
  intro d s c d' s' c'
  constructor
  · intro h
    refine ⟨(hexN_eq_iff 3 d d').mp ?_, (hexN_eq_iff 3 s s').mp ?_, (hexN_eq_iff 3 c c').mp ?_⟩
    · rw [← slice_encodeRequest_dest d s c, h, slice_encodeRequest_dest]
    · rw [← slice_encodeRequest_station d s c, h, slice_encodeRequest_station]
    · rw [← slice_encodeRequest_cmd d s c, h, slice_encodeRequest_cmd]
  · rintro ⟨hd, hs, hc⟩
    rw [← encodeRequest_mod d s c, hd, hs, hc, encodeRequest_mod]

end Sys2Proof

/-! The response decoder: what a success says, the bytes it looks at, and the request fed back
(spec/42_decoder.md R140, R149 to R153). -/

namespace Sys2Proof.Machine

/-! ### A success -/

section Success
variable {b : Buffer} {station : Addr} {registry : Registry} {list : List CommandEntry} {r : ResponseRecord}

/-- A success has passed the frame checks, is for this station, and was matched (R141). -/
theorem decodeResponse_ok_passes (h : decodeResponse b station registry list = some (.ok r)) :
    PassesFrameChecks b ∧ ∃ src cmd, matchResponse b registry list station.toNat src cmd = some (.ok r) := by
  unfold decodeResponse at h
  split at h
  next => cases h
  next hlen =>
  split at h
  next => cases h
  next hstart =>
  split at h
  next => cases h
  next hcrc =>
  refine ⟨⟨Nat.not_lt.mp hlen, not_ne_iff.mp hstart, not_ne_iff.mp hcrc⟩, ?_⟩
  split at h
  next dst src cmd _ _ _ =>
    split at h
    next => cases h
    next hdst => exact ⟨src, cmd, not_ne_iff.mp hdst ▸ h⟩
  next => cases h

/-- The size field, the payload's length and the destination of a match (R147, R149). -/
theorem matchResponse_ok_size {dst src cmd : Nat} (h : matchResponse b registry list dst src cmd = some (.ok r)) :
    unhex (slice b 13 15) = some r.reportedSize ∧ (slice b 15 (b.length - 4)).length = r.reportedSize * 2 ∧
      r.destinationAddress = BitVec.ofNat 12 dst := by
  unfold matchResponse at h
  split at h
  next => cases h
  next size hsize =>
  split at h
  next => cases h
  next hlen =>
  split at h
  next => cases h
  next i hkey =>
    obtain ⟨e, -, hr⟩ := Option.map_eq_some_iff.mp h
    cases hr
    exact ⟨hsize, not_ne_iff.mp hlen, rfl⟩

/-- A field of two digits is at most 255. -/
theorem unhex_slice_two_lt {lo v : Nat} (h : unhex (slice b lo (lo + 2)) = some v) : v < 0x100 := by
  have hlen : (slice b lo (lo + 2)).length ≤ 2 := by
    rw [slice_length]
    omega
  calc v < 16 ^ (slice b lo (lo + 2)).length := unhex_lt h
    _ ≤ 16 ^ 2 := Nat.pow_le_pow_right (by decide) hlen

end Success

/-! ### The bytes the decoder looks at (R150) -/

/-- The buffers agree in everything that a check of R141 looks at, the covered bytes through their XOR. -/
structure SameChecked (b b' : Buffer) : Prop where
  length : b.length = b'.length
  start : b[0]? = b'[0]?
  covered : xorAll (slice b 0 (b.length - 4)) = xorAll (slice b' 0 (b'.length - 4))
  crc : slice b (b.length - 4) (b.length - 2) = slice b' (b'.length - 4) (b'.length - 2)
  dst : slice b 1 4 = slice b' 1 4
  src : slice b 4 7 = slice b' 4 7
  cmd : slice b 7 10 = slice b' 7 10
  size : slice b 13 15 = slice b' 13 15
  payload : slice b 15 (b.length - 4) = slice b' 15 (b'.length - 4)

theorem SameChecked.decodeResponse_eq {b b' : Buffer} (h : SameChecked b b') (station : Addr) (registry : Registry)
    (list : List CommandEntry) : decodeResponse b station registry list = decodeResponse b' station registry list := by
  have hsum := (checksum_eq_iff _ _).mpr h.covered
  simp only [decodeResponse, matchResponse, hsum, h.start, h.crc, h.dst, h.src, h.cmd, h.size, h.payload]
  rw [h.length]

theorem slice_append_of_le {p q : Buffer} {lo hi : Nat} (h : hi ≤ p.length) : slice (p ++ q) lo hi = slice p lo hi := by
  have hnone : hi - lo - (p.length - lo) = 0 := by omega
  rw [slice, slice, List.drop_append, List.take_append, List.length_drop, hnone, List.take_zero, List.append_nil]

theorem slice_append_of_ge {p q : Buffer} {lo hi : Nat} (h : p.length ≤ lo) :
    slice (p ++ q) lo hi = slice q (lo - p.length) (hi - p.length) := by
  rw [slice, slice, List.drop_append, List.drop_eq_nil_of_le h, List.nil_append, Nat.sub_sub_sub_cancel_right h]

/-- The last two bytes are checked by nothing. -/
theorem sameChecked_terminator {covered t t' : Buffer} (ht : t.length = 2) (ht' : t'.length = 2)
    (hlen : 17 ≤ covered.length) : SameChecked (covered ++ t) (covered ++ t') := by
  have hl : (covered ++ t).length = covered.length + 2 := by rw [List.length_append, ht]
  have hl' : (covered ++ t').length = covered.length + 2 := by rw [List.length_append, ht']
  have same {lo hi : Nat} (h : hi ≤ covered.length) : slice (covered ++ t) lo hi = slice (covered ++ t') lo hi := by
    rw [slice_append_of_le h, slice_append_of_le h]
  constructor
  case length => rw [hl, hl']
  case start => rw [List.getElem?_append_left (by omega), List.getElem?_append_left (by omega)]
  case covered => rw [hl, hl', same (by omega)]
  case crc | payload => rw [hl, hl', same (by omega)]
  all_goals exact same (by omega)

/-- The three reserved bytes count through their XOR only. -/
theorem sameChecked_reserved {front r r' back : Buffer} (hfront : front.length = 10) (hr : r.length = 3)
    (hr' : r'.length = 3) (hback : 6 ≤ back.length) (hxor : xorAll r = xorAll r') :
    SameChecked (front ++ r ++ back) (front ++ r' ++ back) := by
  have hp : (front ++ r).length = 13 := by rw [List.length_append, hfront, hr]
  have hp' : (front ++ r').length = 13 := by rw [List.length_append, hfront, hr']
  have hl : (front ++ r ++ back).length = 13 + back.length := by rw [List.length_append, hp]
  have hl' : (front ++ r' ++ back).length = 13 + back.length := by rw [List.length_append, hp']
  have before {lo hi : Nat} (h : hi ≤ 10) : slice (front ++ r ++ back) lo hi = slice (front ++ r' ++ back) lo hi := by
    simp only [List.append_assoc, slice_append_of_le (p := front) (hfront.symm ▸ h)]
  have after {lo hi : Nat} (h : 13 ≤ lo) : slice (front ++ r ++ back) lo hi = slice (front ++ r' ++ back) lo hi := by
    rw [slice_append_of_ge (hp.symm ▸ h), slice_append_of_ge (hp'.symm ▸ h), hp, hp']
  constructor
  case length => rw [hl, hl']
  case start => simp only [List.append_assoc, List.getElem?_append_left (show 0 < front.length by omega)]
  case covered =>
    have hsplit (b : Buffer) : slice b 0 (13 + back.length - 4) = slice b 0 13 ++ slice b 13 (13 + back.length - 4) :=
      (slice_append_slice b (by omega) (by omega)).symm
    have hhead {q : Buffer} (hq : (front ++ q).length = 13) : slice (front ++ q ++ back) 0 13 = front ++ q := by
      rw [slice_append_of_le hq.ge, ← hq, slice_zero_length]
    rw [hl, hl', hsplit, hsplit, after (Nat.le_refl 13), hhead hp, hhead hp']
    simp only [xorAll_append, hxor]
  case crc | payload => rw [hl, hl', after (by omega)]
  case size => exact after (Nat.le_refl 13)
  all_goals exact before (by decide)

/-! ### The request fed back (R153) -/

theorem hexDigit_ne_star : ∀ v, v < 16 → hexDigit v ≠ 0x2A#8 := by
  decide

/-- Two hex digits never end in the `'*'` of TERM3. -/
theorem checksum_ne_star (b : Buffer) (x : Byte) : checksum b ≠ [x, 0x2A#8] := by
  intro h
  have hlast := congrArg (·[1]?) h
  simp only [checksum, getElem?_hexN (show 1 < 2 by decide)] at hlast
  exact hexDigit_ne_star _ (Nat.mod_lt _ (by decide)) (Option.some.inj hlast)

/-- Where a response has its checksum, a request has its second checksum digit and the `'*'`. -/
theorem slice_encodeRequest_responseCrc (dest stn cmd : Nat) :
    ∃ x, slice (encodeRequest dest stn cmd) 16 18 = [x, 0x2A#8] := by
  obtain ⟨x, y, hxy⟩ := List.length_eq_two.mp (checksum_length (requestHeader dest stn cmd))
  refine ⟨y, slice_eq_of_append (before := requestHeader dest stn cmd ++ [x]) (after := [0x0D#8, 0x0A#8]) ?_ ?_ rfl⟩
  · rw [encodeRequest, hxy]
    simp [term3]
  · simp

end Sys2Proof.Machine

namespace Sys2Proof

open Sys2Proof.Machine

/-- Settles O14: the size field has two digits, and the payload between the fixed fields has twice its value. -/
theorem validResponseShape : Obligations.ValidResponseShape := by
  intro b station registry list r h
  obtain ⟨hb, src, cmd, hmatch⟩ := decodeResponse_ok_passes h
  obtain ⟨hsize, hpayload, hdest⟩ := matchResponse_ok_size hmatch
  obtain ⟨hlookup, hentry, hcut⟩ := decodeResponse_ok h
  have hbound : r.reportedSize < 256 := unhex_slice_two_lt hsize
  have hmin : 19 ≤ b.length := hb.length
  have hstation : r.destinationAddress = station := by simpa using hdest
  have hlen : b.length = 19 + 2 * r.reportedSize := by
    rw [payload_length] at hpayload
    omega
  exact ⟨hlen, by omega, hmin, by omega, by omega, hstation, by rw [hcut, hpayload, Nat.mul_comm], hlookup, hentry⟩

/-- Settles O16: the frame passes the length and start checks, and at the place of a response's checksum stands no hex
text. -/
theorem requestFedBackNeverDecodes : Obligations.RequestFedBackNeverDecodes := by
  intro dest stn cmd station registry list
  have hlen : (encodeRequest dest stn cmd).length = 20 := encodeRequest_length dest stn cmd
  obtain ⟨x, hx⟩ := slice_encodeRequest_responseCrc dest stn cmd
  refine decodeResponse_of_checksum_ne station registry list (by rw [hlen]; decide) rfl ?_
  rw [hlen, hx]
  exact checksum_ne_star _ x

/-- Settles O17: in both cases the buffers agree in all that is checked; too short a buffer is truncated either way. -/
theorem terminatorAndReservedIgnored : Obligations.TerminatorAndReservedIgnored := by
  refine fun station registry list => ⟨fun covered t t' ht ht' => ?_, fun front r r' back hfront hr hr' hback hxor =>
    (sameChecked_reserved hfront hr hr' hback hxor).decodeResponse_eq station registry list⟩
  by_cases hlen : 17 ≤ covered.length
  · exact (sameChecked_terminator ht ht' hlen).decodeResponse_eq station registry list
  · rw [decodeResponse_of_short _ _ _ (by rw [List.length_append]; omega),
      decodeResponse_of_short _ _ _ (by rw [List.length_append]; omega)]

/-- Settles O18: the decoder always answers over such a registry (R36), and DECODE responds with its answer. -/
theorem decodeAnswersWithoutTouchingSession : Obligations.DecodeAnswersWithoutTouchingSession := by
  intro b s hin
  obtain ⟨r, hr⟩ := decodeResponse_answers b s.station hin
  exact ⟨r, hr, decodeOnPort_of_some hr⟩

/-- Settles O19: as DECODE, over the fields' bytes in wire order. -/
theorem rspFrameAnswersDecode : Obligations.RspFrameAnswersDecode := by
  intro f s hin
  obtain ⟨r, hr⟩ := decodeResponse_answers (rspBytes f) s.station hin
  exact ⟨r, hr, decodeOnPort_of_some hr⟩

end Sys2Proof

/-! CONFIGURE's checks in their order, and the operations that a phase or a fault settles at once
(spec/43_command_table.md R181; spec/44_sequencer.md R201, R212, R213, R230). -/

namespace Sys2Proof.Machine

section Check
variable {nMax station : Nat} {list : List EntryArg}

theorem checkConfig_of_station_ge (h : 0x1000 ≤ station) :
    checkConfig nMax station list = some .stationOutOfRange :=
  if_pos h

/-- The lowest index whose field is out of range. -/
theorem findIdx?_outOfRange {field : EntryArg → Nat} {i : Nat} {e : EntryArg} (he : list[i]? = some e)
    (hbad : 0x1000 ≤ field e) (hbefore : ∀ (j : Nat) (e' : EntryArg), j < i → list[j]? = some e' → field e' < 0x1000) :
    list.findIdx? (fun e => decide (0x1000 ≤ field e)) = some i := by
  obtain ⟨hi, rfl⟩ := List.getElem?_eq_some_iff.mp he
  refine List.findIdx?_eq_some_iff_getElem.mpr ⟨hi, decide_eq_true hbad, fun j hj => ?_⟩
  simpa using hbefore j _ hj (List.getElem?_eq_getElem (hj.trans hi))

variable (hst : station < 0x1000)
include hst

theorem checkConfig_of_length_gt (h : nMax < list.length) : checkConfig nMax station list = some .tooManyEntries := by
  rw [checkConfig, if_neg (Nat.not_le.mpr hst), if_pos h]

variable (hlen : list.length ≤ nMax) {i : Nat}
include hlen

theorem checkConfig_of_device (h : list.findIdx? (fun e => decide (0x1000 ≤ e.deviceAddress)) = some i) :
    checkConfig nMax station list = some (.deviceOutOfRange i) := by
  rw [checkConfig, if_neg (Nat.not_le.mpr hst), if_neg (Nat.not_lt.mpr hlen), h]

theorem checkConfig_of_command (hdevices : ∀ e ∈ list, e.deviceAddress < 0x1000)
    (h : list.findIdx? (fun e => decide (0x1000 ≤ e.commandCode)) = some i) :
    checkConfig nMax station list = some (.commandOutOfRange i) := by
  have hnone : list.findIdx? (fun e => decide (0x1000 ≤ e.deviceAddress)) = none := by
    simpa [List.findIdx?_eq_none_iff] using hdevices
  rw [checkConfig, if_neg (Nat.not_le.mpr hst), if_neg (Nat.not_lt.mpr hlen), hnone, h]

end Check

section Peek
variable {s : State} (hf : s.fault = none)
include hf

theorem exec_txPeek_of_nothing (h : s.N = 0 ∨ s.phase = .cycleDone) :
    exec .txPeek s = .next (s.respond (.offer none)) := by
  rw [exec, execTxPeek, unlessFaulted_of_none hf, if_pos h]

theorem exec_txPeek_of_request {b : Buffer} (hN : s.N ≠ 0) (hp : s.phase ≠ .cycleDone)
    (hb : s.reqBuf[s.currentIndex]? = some b) : exec .txPeek s = .next (s.respond (.offer (some b))) := by
  rw [exec, execTxPeek, unlessFaulted_of_none hf, if_neg (not_or.mpr ⟨hN, hp⟩), hb]

theorem exec_txCommit_zero : exec (.txCommit 0) s = .next (s.respond .ok) := by
  rw [exec, execTxCommit, unlessFaulted_of_none hf, if_pos rfl]

/-- In RESPONSE_PENDING the whole buffer goes out again and nothing is written (R213). -/
theorem exec_txCommit_resends {b : Buffer} (hp : s.phase = .responsePending)
    (hb : s.reqBuf[s.currentIndex]? = some b) (hlen : b.length = 20) :
    exec (.txCommit 20) s = .next (s.respond .ok) := by
  have hsent : s.phase ≠ .sendPending := by simp [hp]
  rw [exec_txCommit_of_offered hf (by decide) (.inr hp), commitCount, hb]
  simp only [if_pos hlen.symm, if_neg hsent]

end Peek

end Sys2Proof.Machine

namespace Sys2Proof

open Sys2Proof.Machine

/-- Settles O20: the operands in range are accepted, and what is written is the table of R35. -/
theorem configureStartsSession : Obligations.ConfigureStartsSession :=
  fun station list s hin =>
    ⟨_, exec_configure_of_inRange hin, afterConfigure_configured station list s, rfl, rfl⟩

/-- Settles O21: the check's answers in the order of R181, each of them put out without a write. -/
theorem configureRejectsFirstError : Obligations.ConfigureRejectsFirstError := by
  rintro station list s rejects rfl
  have reject {reason : ConfigError} (h : checkConfig s.params.nMax station list = some reason) :
      exec (.configure station list) s = .next (s.respond (.configError reason)) := execConfigure_of_rejected h
  refine ⟨fun hst => reject (checkConfig_of_station_ge hst), fun hst hlen => reject (checkConfig_of_length_gt hst hlen),
    fun hst hlen => ⟨fun i e he hbad hbefore => ?device, fun hdevices i e he hbad hbefore => ?command⟩,
    fun hin => ⟨_, exec_configure_of_inRange hin, rfl⟩⟩
  case device => exact reject (checkConfig_of_device hst hlen (findIdx?_outOfRange he hbad hbefore))
  case command => exact reject (checkConfig_of_command hst hlen hdevices (findIdx?_outOfRange he hbad hbefore))

/-- Settles O12: the row's meaning is the encoder on the three fields. -/
theorem reqFrameAnswersFrame : Obligations.ReqFrameAnswersFrame :=
  fun _ _ _ _ => rfl

/-- Settles O24: the fault check, then the two lines of R201. -/
theorem txPeekOffersRequest : Obligations.TxPeekOffersRequest :=
  fun _ => ⟨fun _ hk => unlessFaulted_of_some hk, fun hf h => exec_txPeek_of_nothing hf h,
    fun _ hf hN hp hb => exec_txPeek_of_request hf hN hp hb⟩

/-- Settles O26: a count of 0 is answered before the phase is looked at, a resend after the count is compared. -/
theorem txCommitBackpressureAndResend : Obligations.TxCommitBackpressureAndResend :=
  fun _ hf => ⟨exec_txCommit_zero hf, fun _ hp hb hlen => exec_txCommit_resends hf hp hb hlen⟩

/-- Settles O35: STATUS responds with the record of the session (R230). -/
theorem statusReadsSession : Obligations.StatusReadsSession :=
  ⟨fun _ => rfl, rfl⟩

/-- Settles O45: the five code functions at their finitely many kinds of argument. -/
theorem resultCodes : Obligations.ResultCodes :=
  ⟨rfl, rfl, rfl, fun _ _ => rfl, rfl⟩

end Sys2Proof
